-- ==== Sys2Proof/Word.lean ====
section
/-! DEFINITION. The word types of the block: bytes, runs of bytes, and the widths of the wire fields
(00_scope R5, R7; 30_encoding R60). Every value is unsigned; there is no signed quantity in the block. -/

namespace Sys2Proof

/-- A byte (00_scope R5). -/
abbrev Byte := BitVec 8

/-- A 16-bit field. -/
abbrev Half := BitVec 16

/-- A 32-bit field. -/
abbrev Word := BitVec 32

/-- A 64-bit field. -/
abbrev Dword := BitVec 64

/-- A run of bytes in stream order, byte 0 first (00_scope R5). -/
abbrev Run := List Byte

end Sys2Proof
end

