-- ==== Sys2Proof/Machine/Bits.lean ====
section
/-! DEFINITION. Byte order, bit fields and padding (00_scope R5 to R7; 43_nlri_prefix R126). -/

namespace Sys2Proof.Machine

/-- `be(B)`, the big-endian value of a run (00_scope R7). -/
def be (b : Run) : Nat :=
  b.foldl (fun acc x => acc * 256 + x.toNat) 0

/-- The `n` bytes whose big-endian value is `v` (modulo `256 ^ n`). -/
def toBe : Nat → Nat → Run
  | 0, _ => []
  | n + 1, v => BitVec.ofNat 8 (v / 256 ^ n) :: toBe n v

/-- `ceil8(L) = (L + 7) div 8` (00_scope R7). -/
def ceil8 (l : Nat) : Nat :=
  (l + 7) / 8

/-- `zeros(n)` (00_scope R5). -/
def zeros (n : Nat) : Run :=
  List.replicate n 0

/-- The mask that keeps the `r` most significant bits of a byte (43 R126): `(0xFF << (8 - r)) & 0xFF`. -/
def headMask (r : Nat) : Byte :=
  (0xFF : Byte) <<< (8 - r)

/-- Byte `i` of a run is replaced by its `mask`ed value; outside the run nothing changes. -/
def maskAt : Nat → Byte → Run → Run
  | _, _, [] => []
  | 0, m, b :: bs => (b &&& m) :: bs
  | i + 1, m, b :: bs => b :: maskAt i m bs

end Sys2Proof.Machine
end

