-- ==== Sys2Proof/Config.lean ====
section
/-! DEFINITION. The configuration record `Cfg` of 00_scope R4, its defaults, and the one function the spec leaves
uninterpreted, `BgpMsgDecode` (46_bgp4mp R163). -/

namespace Sys2Proof

/-- The parameters of 00_scope R4, fixed before reset (70 R212). Not named here: `BgpMsgDecode`
(`Config.bgpMsgDecode`) and `IOCODE_W` (the code is a `Nat` of any size, assumption 10). -/
structure Cfg where
  tOspfv2 : Half
  tTableDump : Half
  tTableDumpV2 : Half
  tBgp4mp : Half
  tBgp4mpEt : Half
  tIsis : Half
  tIsisEt : Half
  tOspfv3 : Half
  tOspfv3Et : Half
  /-- `ET_TYPES`, the extended-timestamp type codes (D13). -/
  etTypes : List Half
  stTdV4 : Half
  stTdV6 : Half
  stPit : Half
  stRibV4u : Half
  stRibV4m : Half
  stRibV6u : Half
  stRibV6m : Half
  stRibg : Half
  /-- First subtype of the ADD-PATH sub-range (30 R64). -/
  apLo : Half
  /-- Last subtype of the ADD-PATH sub-range (30 R64). -/
  apHi : Half
  stRibV4uAp : Half
  stRibV4mAp : Half
  stRibV6uAp : Half
  stRibV6mAp : Half
  stRibgAp : Half
  stB4Sc : Half
  stB4Msg : Half
  stB4Msg4 : Half
  stB4Sc4 : Half
  afiV4 : Half
  afiV6 : Half
  /-- Mask of the attribute flag bit that selects a 2-byte length (30 R70). -/
  attrExtlen : Byte
  /-- `LEN` of an extended frame includes the 4 microsecond bytes (30 R62, D1). -/
  lenCountsUs : Bool
  /-- The microsecond field is folded into `TS` (10_state R14, D2). -/
  honourUs : Bool
  /-- Stray bits of the last prefix byte are cleared (43 R126, D10). -/
  nlriMaskTail : Bool
  /-- Frame buffer capacity in bytes (D21). -/
  fbCap : Nat
  deriving DecidableEq, Repr

/-- The column "default" of 00_scope R4 (assumptions 5 and 19). -/
def Cfg.default : Cfg where
  tOspfv2 := 11
  tTableDump := 12
  tTableDumpV2 := 13
  tBgp4mp := 16
  tBgp4mpEt := 17
  tIsis := 32
  tIsisEt := 33
  tOspfv3 := 48
  tOspfv3Et := 49
  etTypes := [17, 33, 49]
  stTdV4 := 1
  stTdV6 := 2
  stPit := 1
  stRibV4u := 2
  stRibV4m := 3
  stRibV6u := 4
  stRibV6m := 5
  stRibg := 6
  apLo := 8
  apHi := 12
  stRibV4uAp := 8
  stRibV4mAp := 9
  stRibV6uAp := 10
  stRibV6mAp := 11
  stRibgAp := 12
  stB4Sc := 0
  stB4Msg := 1
  stB4Msg4 := 4
  stB4Sc4 := 5
  afiV4 := 1
  afiV6 := 2
  attrExtlen := 0x10
  lenCountsUs := false
  honourUs := true
  nlriMaskTail := true
  fbCap := 16 + (2 ^ 32 - 1)

/-- A parsed protocol message "of a type the block does not look into" (46 R163): a handle with no structure
(assumption 9). -/
structure BgpMsg where
  handle : Nat
  deriving DecidableEq, Repr

/-- `BgpMsgDecode(payload, asw, af)`, the external sub-decoder (46 R163): total, deterministic, and otherwise
nothing is known of it. `none` is the spec's `Err`. -/
opaque Config.bgpMsgDecode (payload : Run) (asw : Nat) (af : Half) : Option BgpMsg

end Sys2Proof
end

