-- ==== Sys2Proof/Syntax.lean ====
section
/-! DEFINITION. The record classes (30_encoding R63) and the instructions: one constructor per row of
opcode_table.json. -/

namespace Sys2Proof

/-- The twenty record classes, in the order of the rows of 30_encoding R63. -/
inductive RecordClass
  | tdV4
  | tdV6
  | td2Pit
  | td2RibV4u
  | td2RibV4m
  | td2RibV6u
  | td2RibV6m
  | td2Ribg
  | td2RibV4uAp
  | td2RibV4mAp
  | td2RibV6uAp
  | td2RibV6mAp
  | td2RibgAp
  | b4Sc
  | b4Msg
  | b4Msg4
  | b4Sc4
  | ospf2
  | ospf3
  | isis
  deriving DecidableEq, Repr

/-- One constructor per row of the opcode table. A frame row is selected by `TYPE ‖ SUBTYPE`; where the row does
not examine the subtype, the instruction carries it. An element row is selected by the element's first byte,
which it carries: the flags byte of a PeerEntry or of an attribute, the length byte of a prefix. -/
inductive Instr
  /-- TableDump, IPv4 (45 R140). -/
  | tdV4
  /-- TableDump, IPv6 (45 R140). -/
  | tdV6
  /-- TableDumpV2PeerIndexTable (45 R142). -/
  | td2Pit
  /-- TableDumpV2RIB, IPv4 unicast (45 R145). -/
  | td2RibV4u
  /-- TableDumpV2RIB, IPv4 multicast (45 R145). -/
  | td2RibV4m
  /-- TableDumpV2RIB, IPv6 unicast (45 R145). -/
  | td2RibV6u
  /-- TableDumpV2RIB, IPv6 multicast (45 R145). -/
  | td2RibV6m
  /-- TableDumpV2RIBGeneric (45 R146). -/
  | td2Ribg
  /-- TableDumpV2RIB, IPv4 unicast, ADD-PATH (45 R145). -/
  | td2RibV4uAp
  /-- TableDumpV2RIB, IPv4 multicast, ADD-PATH (45 R145). -/
  | td2RibV4mAp
  /-- TableDumpV2RIB, IPv6 unicast, ADD-PATH (45 R145). -/
  | td2RibV6uAp
  /-- TableDumpV2RIB, IPv6 multicast, ADD-PATH (45 R145). -/
  | td2RibV6mAp
  /-- TableDumpV2RIBGeneric, ADD-PATH (45 R146). -/
  | td2RibgAp
  /-- BGP4MPStateChange, 2-byte AS (46 R161). -/
  | b4Sc
  /-- Its extended-timestamp twin (46 R164). -/
  | b4ScEt
  /-- BGP4MPMessage, 2-byte AS (46 R162). -/
  | b4Msg
  /-- Its extended-timestamp twin (46 R164). -/
  | b4MsgEt
  /-- BGP4MPMessage, 4-byte AS (46 R162). -/
  | b4Msg4
  /-- Its extended-timestamp twin (46 R164). -/
  | b4Msg4Et
  /-- BGP4MPStateChange, 4-byte AS (46 R161). -/
  | b4Sc4
  /-- Its extended-timestamp twin (46 R164). -/
  | b4Sc4Et
  /-- OSPFv2 (47 R170); the subtype is not examined. -/
  | ospf2 (sub : Half)
  /-- OSPFv3 (47 R171); the subtype is not examined. -/
  | ospf3 (sub : Half)
  /-- Its extended-timestamp twin. -/
  | ospf3Et (sub : Half)
  /-- IS-IS (47 R172); the subtype is not examined. -/
  | isis (sub : Half)
  /-- Its extended-timestamp twin. -/
  | isisEt (sub : Half)
  /-- PeerEntry with 4-byte address and 2-byte AS (30 R68, 45 R143). -/
  | peerV4As2 (flags : Byte)
  /-- PeerEntry with 16-byte address and 2-byte AS. -/
  | peerV6As2 (flags : Byte)
  /-- PeerEntry with 4-byte address and 4-byte AS. -/
  | peerV4As4 (flags : Byte)
  /-- PeerEntry with 16-byte address and 4-byte AS. -/
  | peerV6As4 (flags : Byte)
  /-- Path attribute with a 1-byte length (30 R70, 44 R131). -/
  | attrShort (flags : Byte)
  /-- Path attribute with a 2-byte length. -/
  | attrExt (flags : Byte)
  /-- NLRI prefix of bit length `bits` (30 R67, 43 R125). -/
  | nlri (bits : Byte)
  deriving DecidableEq, Repr

/-- Where the bits of an instruction are met: at a frame's header, or at an element inside a body. The element
rows have no opcode space of their own; the place decides which of them a byte may be. -/
inductive Place
  | frame
  | peer
  | attr
  | nlri
  deriving DecidableEq, Repr

/-- The place each instruction is met at. -/
def Instr.place : Instr → Place
  | .tdV4 | .tdV6 | .td2Pit | .td2RibV4u | .td2RibV4m | .td2RibV6u | .td2RibV6m | .td2Ribg => .frame
  | .td2RibV4uAp | .td2RibV4mAp | .td2RibV6uAp | .td2RibV6mAp | .td2RibgAp => .frame
  | .b4Sc | .b4ScEt | .b4Msg | .b4MsgEt | .b4Msg4 | .b4Msg4Et | .b4Sc4 | .b4Sc4Et => .frame
  | .ospf2 _ | .ospf3 _ | .ospf3Et _ | .isis _ | .isisEt _ => .frame
  | .peerV4As2 _ | .peerV6As2 _ | .peerV4As4 _ | .peerV6As4 _ => .peer
  | .attrShort _ | .attrExt _ => .attr
  | .nlri _ => .nlri

/-- The record class a frame instruction dispatches to (30 R63); an element has none. -/
def Instr.recordClass : Instr → Option RecordClass
  | .tdV4 => some .tdV4
  | .tdV6 => some .tdV6
  | .td2Pit => some .td2Pit
  | .td2RibV4u => some .td2RibV4u
  | .td2RibV4m => some .td2RibV4m
  | .td2RibV6u => some .td2RibV6u
  | .td2RibV6m => some .td2RibV6m
  | .td2Ribg => some .td2Ribg
  | .td2RibV4uAp => some .td2RibV4uAp
  | .td2RibV4mAp => some .td2RibV4mAp
  | .td2RibV6uAp => some .td2RibV6uAp
  | .td2RibV6mAp => some .td2RibV6mAp
  | .td2RibgAp => some .td2RibgAp
  | .b4Sc | .b4ScEt => some .b4Sc
  | .b4Msg | .b4MsgEt => some .b4Msg
  | .b4Msg4 | .b4Msg4Et => some .b4Msg4
  | .b4Sc4 | .b4Sc4Et => some .b4Sc4
  | .ospf2 _ => some .ospf2
  | .ospf3 _ | .ospf3Et _ => some .ospf3
  | .isis _ | .isisEt _ => some .isis
  | .peerV4As2 _ | .peerV6As2 _ | .peerV4As4 _ | .peerV6As4 _ => none
  | .attrShort _ | .attrExt _ | .nlri _ => none

end Sys2Proof
end

