-- ==== Sys2Proof/Machine/State.lean ====
section
/-! DEFINITION. The machine's state as plain data (10_state), the value types of the Record (R22 to R27), the reasons a step can
stop, and the state after reset (70_reset_and_hazards R210). A register the spec gives the value "none" is an
`Option` (assumption 1). -/

namespace Sys2Proof.Machine

/-- The states of the stream reader (10_state R12), in the order of their codes. -/
inductive Fsm
  | awaitingHeader
  | haveHeader
  | awaitingBody
  | dispatching
  | done
  deriving DecidableEq, Repr

/-- The result kinds (60_exceptions R180), in the order of their codes (10_state R19). -/
inductive ResKind
  | record
  | endOfStream
  | truncatedInput
  | unsupportedRecord
  | malformedRecord
  | malformedAttribute
  | underlyingIOError
  deriving DecidableEq, Repr

/-- What `TERM` holds (10_state R12): live, or the stream-fatal kind that ended the stream. -/
inductive Term
  | live
  | endOfStream
  | truncatedInput
  | underlyingIOError
  deriving DecidableEq, Repr

/-- ASNumber (10_state R23): "only width 0 (absent), 2, or 4 bytes is valid", so no other width can be built. -/
inductive ASNumber
  | absent
  | as2 (v : Half)
  | as4 (v : Word)
  deriving DecidableEq, Repr

/-- Prefix (10_state R24). -/
structure Prefix where
  addr : Run
  bitlen : Byte
  deriving DecidableEq, Repr

/-- Attr (10_state R27). -/
structure Attr where
  flags : Byte
  type : Byte
  length : Half
  value : Run
  asw : Nat
  deriving DecidableEq, Repr

/-- PeerEntry (10_state R25); the field `as` of the spec is `asn`. -/
structure PeerEntry where
  flags : Byte
  bgpId : Word
  addr : Run
  asn : ASNumber
  deriving DecidableEq, Repr

/-- RIBEntry (10_state R26); `pathId` is present exactly when `AP = 1`. -/
structure RIBEntry where
  peerIndex : Half
  otime : Word
  pathId : Option Word
  attrs : List Attr
  deriving DecidableEq, Repr

/-- `hdr` of every Record (10_state R22). -/
structure FrameHdr where
  timestamp : Dword
  type : Half
  subtype : Half
  deriving DecidableEq, Repr

/-- The fields common to the BGP4MP records, what `B4HEAD` returns (46 R160). -/
structure B4Head where
  peerAs : ASNumber
  localAs : ASNumber
  ifindex : Half
  af : Half
  peerIp : Run
  localIp : Run
  deriving DecidableEq, Repr

/-- Record, the closed variant of nine kinds (10_state R22). -/
inductive Record
  | tableDump (hdr : FrameHdr) (view seq : Half) (prefixAddr : Run) (prefixLen status : Byte) (otime : Word)
      (peerAddr : Run) (peerAs : ASNumber) (attrs : List Attr)
  | peerIndexTable (hdr : FrameHdr) (collectorId : Word) (viewName : Run) (peers : List PeerEntry)
  | rib (hdr : FrameHdr) (seq : Word) (pfx : Prefix) (entries : List RIBEntry)
  | ribGeneric (hdr : FrameHdr) (seq : Word) (afi : Half) (safi : Byte) (pfx : Prefix) (entries : List RIBEntry)
  | stateChange (hdr : FrameHdr) (head : B4Head) (oldState newState : Half)
  | message (hdr : FrameHdr) (head : B4Head) (msg : BgpMsg)
  | ospfv2 (hdr : FrameHdr) (remote loc payload : Run)
  | ospfv3 (hdr : FrameHdr) (af : Half) (remote loc payload : Run)
  | isis (hdr : FrameHdr) (payload : Run)
  deriving DecidableEq, Repr

/-- What a unit operation yields (00_scope R8, `yield`). -/
inductive Element
  | peer (e : PeerEntry)
  | pfx (p : Prefix)
  | attr (a : Attr)
  deriving DecidableEq, Repr

/-- The terminal mark of the supplier's stream (20_memory R41), or `silent`: the supplier never answers a request
that its bytes do not fill (70 R218, U9). -/
inductive SrcEnd
  | eos
  | ioerr (code : Nat)
  | silent
  deriving DecidableEq, Repr

/-- The registers a caller may read (10_state R20, 60 R204). -/
inductive CallerReg
  | res
  | term
  | iocode
  | spos
  | tsSec
  | typ
  | subtyp
  | len
  | et
  | hlen
  | tsUsec
  | ts
  | record
  deriving DecidableEq, Repr

/-- What the caller does in one step (60 R204): issue `NEXT`, make no request, read a register, reset; or stop for good,
"stop issuing at any time", after which no act of its comes any more. -/
inductive CallerAct
  | next
  | hold
  | read (r : CallerReg)
  | reset
  | stop
  deriving DecidableEq, Repr

/-- The registers that may hold no value, as named in a fault. -/
inductive RegName
  | typ
  | subtyp
  | len
  | et
  | hlen
  | tsSec
  | ts
  | cur
  | lim
  | asw
  | afw
  | ap
  | atCur
  | atLim
  | atAsw
  deriving DecidableEq, Repr

/-- Why the machine stops with a fault. None is reachable from reset. -/
inductive Fault
  /-- A rule read a register that holds no value: "a read of it before a write is a fault of the model" (10_state,
  heading text). Raised by the register reads of Ops. Safe. -/
  | noValue (r : RegName)
  /-- A rule read a byte of `FB` that holds no value (10_state R15, 20 R44). Raised by `memRead`. Safe. -/
  | fbNoValue (addr : Nat)
  /-- An access at or above `FB_CAP`, an address that does not exist (10_state R15). Raised by `memRead` and
  `memWrite`. Safe. -/
  | fbRange (addr : Nat)
  /-- The attribute loop met its bound with bytes left; every step consumes at least 3 (44 R132), so this never
  happens. Raised by `attrLoop`. Safe. -/
  | iteratorBound
  deriving DecidableEq, Repr

/-- Why a step has no meaning. -/
inductive Refusal
  /-- An instruction without a meaning yet. Raised by `exec` only. Safe. -/
  | notModelled (mnemonic : String)
  /-- `NEXT` issued at `BUSY = 1`: undefined (70 R215, U1). Raised by `acceptNext`. Safe. -/
  | nextWhileBusy
  /-- `RES`, `REC` or a group H register read at `BUSY = 1`: undefined (70 R215, U1). Raised by `readReg`. Safe. -/
  | readWhileBusy (r : CallerReg)
  /-- `ADDR(w)` with a `w` outside 4 and 16: "not a form of this operation: no rule calls it with one, and a model
  refuses it" (40 R96). Raised by `addr`. Safe. -/
  | addrWidth (w : Nat)
  deriving DecidableEq, Repr

/-- A byte memory: address and byte pairs, addresses strictly rising. An address that is not listed holds no
value (10_state R15, 70 R210). -/
abbrev Memory := List Host.Cell

/-- What the next step of state `Dispatching` decodes (assumption 7). -/
abbrev Focus := Place

/-- The state. Names of registers are the spec's in lower case. -/
structure State where
  /-- `Cfg`, fixed before reset (00_scope R4, 10_state R11); no step writes it. -/
  cfg : Cfg
  /-- The bytes the supplier has still to deliver (20 R41). -/
  src : Run
  /-- What follows them. -/
  srcEnd : SrcEnd
  /-- The caller's acts still to come; past their end it issues `NEXT` whenever `BUSY = 0` (assumption 4). -/
  calls : List CallerAct
  fsm : Fsm
  term : Term
  iocode : Option Nat
  spos : Dword
  busy : Bool
  tsSec : Option Word
  typ : Option Half
  subtyp : Option Half
  len : Option Word
  et : Option Bool
  hlen : Option Nat
  tsUsec : Option Word
  ts : Option Dword
  fb : Memory
  cur : Option Nat
  lim : Option Nat
  cls : Option RecordClass
  asw : Option Nat
  afw : Option Nat
  ap : Option Bool
  atCur : Option Nat
  atLim : Option Nat
  atAsw : Option Nat
  focus : Focus
  built : List Element
  res : Option ResKind
  record : Option Record
  deriving DecidableEq, Repr

/-- The state after reset (70 R210): `FSM`, `TERM`, `SPOS`, `BUSY` as listed there and every other register none. The
default configuration; a supplier with nothing to deliver (assumption 3); no caller act (assumption 4). -/
def State.reset : State where
  cfg := Cfg.default
  src := []
  srcEnd := .eos
  calls := []
  fsm := .awaitingHeader
  term := .live
  iocode := none
  spos := 0
  busy := false
  tsSec := none
  typ := none
  subtyp := none
  len := none
  et := none
  hlen := none
  tsUsec := none
  ts := none
  fb := []
  cur := none
  lim := none
  cls := none
  asw := none
  afw := none
  ap := none
  atCur := none
  atLim := none
  atAsw := none
  focus := .frame
  built := []
  res := none
  record := none

end Sys2Proof.Machine
end

