-- ==== Sys2Proof/Machine/Flags.lean ====
section
/-! DEFINITION. The numeric codes of the enumerations (10_state R12, R18, R19) and the conditions derived from registers. The
block has no arithmetic condition codes: "Its only flags are the result of the last NEXT, RES, and the terminal
copy TERM" (10_state R19). -/

namespace Sys2Proof.Machine

/-- The 3-bit code of `FSM` (10_state R12); 5 to 7 never occur. -/
def Fsm.code : Fsm → BitVec 3
  | .awaitingHeader => 0
  | .haveHeader => 1
  | .awaitingBody => 2
  | .dispatching => 3
  | .done => 4

/-- The 3-bit code of a result kind (10_state R19); 7 never occurs. -/
def ResKind.code : ResKind → BitVec 3
  | .record => 0
  | .endOfStream => 1
  | .truncatedInput => 2
  | .unsupportedRecord => 3
  | .malformedRecord => 4
  | .malformedAttribute => 5
  | .underlyingIOError => 6

/-- The 3-bit code `TERM` holds (10_state R12). -/
def Term.code : Term → BitVec 3
  | .live => 0
  | .endOfStream => 1
  | .truncatedInput => 2
  | .underlyingIOError => 6

/-- `RES <- x[TERM]` (41 R100): the kind of the same code. -/
def Term.replay : Term → ResKind
  | .live => .record
  | .endOfStream => .endOfStream
  | .truncatedInput => .truncatedInput
  | .underlyingIOError => .underlyingIOError

/-- The number `CLASS` holds: the row of 30 R63. -/
def classNumber : RecordClass → Nat
  | .tdV4 => 1
  | .tdV6 => 2
  | .td2Pit => 3
  | .td2RibV4u => 4
  | .td2RibV4m => 5
  | .td2RibV6u => 6
  | .td2RibV6m => 7
  | .td2Ribg => 8
  | .td2RibV4uAp => 9
  | .td2RibV4mAp => 10
  | .td2RibV6uAp => 11
  | .td2RibV6mAp => 12
  | .td2RibgAp => 13
  | .b4Sc => 14
  | .b4Msg => 15
  | .b4Msg4 => 16
  | .b4Sc4 => 17
  | .ospf2 => 18
  | .ospf3 => 19
  | .isis => 20

/-- `live = (TERM = 0)` (10_state R19). -/
def State.live (s : State) : Bool :=
  s.term == .live

/-- `at_end = (AT_CUR = AT_LIM)` (10_state R19). -/
def State.atEnd (s : State) : Bool :=
  s.atCur == s.atLim

/-- A result after which the stream goes on (60 R180): kinds 0, 3, 4, 5, and 2 while the stream is live. -/
def ResKind.perFrame (k : ResKind) (term : Term) : Bool :=
  match k with
  | .record | .unsupportedRecord | .malformedRecord | .malformedAttribute => true
  | .truncatedInput => term == .live
  | .endOfStream | .underlyingIOError => false

/-- The ASNumber's width in bytes (10_state R23). -/
def ASNumber.width : ASNumber → Nat
  | .absent => 0
  | .as2 _ => 2
  | .as4 _ => 4

/-- The ASNumber's value, widened to 32 bits; none when absent (10_state R23). -/
def ASNumber.value : ASNumber → Option Word
  | .absent => none
  | .as2 v => some (v.setWidth 32)
  | .as4 v => some v

end Sys2Proof.Machine
end

