-- ==== Sys2Proof/Machine/Memory.lean ====
section
/-! DEFINITION. The frame buffer as a byte memory (10_state R15, 20_memory R44): reading one byte, writing a run, and the
canonical form both keep. -/

namespace Sys2Proof.Machine

/-- The byte at address `a`; `none` where nothing has a value. -/
def Memory.read (m : Memory) (a : Nat) : Option Byte :=
  (m.find? fun c => c.1 == a).map Prod.snd

/-- The cells of a run laid at address `a` and up. -/
def Memory.cells : Nat → Run → Memory
  | _, [] => []
  | a, b :: bs => (a, b) :: Memory.cells (a + 1) bs

/-- `FB[a : a+len(b)) <- b`: the cells below, the run, the cells above. -/
def Memory.write (m : Memory) (a : Nat) (b : Run) : Memory :=
  m.filter (fun c => decide (c.1 < a)) ++ Memory.cells a b ++ m.filter fun c => decide (a + b.length ≤ c.1)

/-- The canonical form: addresses strictly rising. An unlisted address holds no value, so no cell can repeat what
an unlisted address reads as. -/
abbrev Memory.wf (m : Memory) : Prop :=
  (m.map Prod.fst).Pairwise (· < ·)

/-- The run `FB[a : a+n)`, when each of its bytes has a value. -/
def Memory.readRun (m : Memory) : Nat → Nat → Option Run
  | _, 0 => some []
  | a, n + 1 => (m.read a).bind fun b => (m.readRun (a + 1) n).map fun bs => b :: bs

/-- The first address of `a, a+1, …, a+n-1` whose byte has no value. -/
def Memory.firstHole (m : Memory) : Nat → Nat → Nat
  | a, 0 => a
  | a, n + 1 => if (m.read a).isNone then a else m.firstHole (a + 1) n

end Sys2Proof.Machine
end

