-- ==== Sys2Proof/Machine/Operands.lean ====
section
/-! DEFINITION. Operand forms: the columns of the dispatch map (30_encoding R63), the widths that flags and selectors choose
(R68, R70, R71), and the lengths of a frame (R61, R62). -/

namespace Sys2Proof.Machine

/-- Column `AFW` of 30 R63; none for "per entry", "by af", "by afi" and "none". -/
def classAfw : RecordClass → Option Nat
  | .tdV4 => some 4
  | .tdV6 => some 16
  | .td2Pit => none
  | .td2RibV4u | .td2RibV4m | .td2RibV4uAp | .td2RibV4mAp => some 4
  | .td2RibV6u | .td2RibV6m | .td2RibV6uAp | .td2RibV6mAp => some 16
  | .td2Ribg | .td2RibgAp => none
  | .b4Sc | .b4Msg | .b4Msg4 | .b4Sc4 => none
  | .ospf2 => some 4
  | .ospf3 | .isis => none

/-- Column `ASW` of 30 R63; none for "per entry" and "none". -/
def classAsw : RecordClass → Option Nat
  | .tdV4 | .tdV6 => some 2
  | .td2Pit => none
  | .td2RibV4u | .td2RibV4m | .td2RibV6u | .td2RibV6m | .td2Ribg => some 4
  | .td2RibV4uAp | .td2RibV4mAp | .td2RibV6uAp | .td2RibV6mAp | .td2RibgAp => some 4
  | .b4Sc | .b4Msg => some 2
  | .b4Msg4 | .b4Sc4 => some 4
  | .ospf2 | .ospf3 | .isis => none

/-- Column `AP` of 30 R63. -/
def classAp : RecordClass → Bool
  | .td2RibV4uAp | .td2RibV4mAp | .td2RibV6uAp | .td2RibV6mAp | .td2RibgAp => true
  | .tdV4 | .tdV6 | .td2Pit | .td2RibV4u | .td2RibV4m | .td2RibV6u | .td2RibV6m | .td2Ribg => false
  | .b4Sc | .b4Msg | .b4Msg4 | .b4Sc4 | .ospf2 | .ospf3 | .isis => false

/-- The address width an address-family field selects (30 R71). -/
def afWidth (cfg : Cfg) (af : Half) : Option Nat :=
  if af = cfg.afiV4 then some 4 else if af = cfg.afiV6 then some 16 else none

/-- `aw` of a PeerEntry: 16 if `flags[0] = 1`, else 4 (30 R68). -/
def peerAddrWidth (flags : Byte) : Nat :=
  if flags.getLsbD 0 then 16 else 4

/-- `sw` of a PeerEntry: 4 if `flags[1] = 1`, else 2 (30 R68). -/
def peerAsWidth (flags : Byte) : Nat :=
  if flags.getLsbD 1 then 4 else 2

/-- The attribute has a 2-byte length (30 R70). -/
def attrIsExt (cfg : Cfg) (flags : Byte) : Bool :=
  flags &&& cfg.attrExtlen != 0

/-- Header bytes of an attribute: 4 with a 2-byte length, else 3 (30 R70). -/
def attrHeaderLen (ext : Bool) : Nat :=
  if ext then 4 else 3

/-- `ET` (10_state R13). -/
def isEt (cfg : Cfg) (typ : Half) : Bool :=
  cfg.etTypes.contains typ

/-- `HLEN <- 12 + 4 * ET` (41 R102). -/
def headerLen (et : Bool) : Nat :=
  if et then 16 else 12

/-- `LEN` includes the microsecond field of this frame: the variant of 30 R62. -/
def countsUs (cfg : Cfg) (et : Bool) : Bool :=
  cfg.lenCountsUs && et

/-- The bytes a frame occupies (30 R62): `HLEN + LEN`, or `12 + LEN` in the variant. -/
def frameLen (cfg : Cfg) (et : Bool) (len : Word) : Nat :=
  if countsUs cfg et then 12 + len.toNat else headerLen et + len.toNat

/-- The bytes read after the first 12 (41 R103). -/
def bodyNeed (cfg : Cfg) (et : Bool) (len : Word) : Nat :=
  frameLen cfg et len - 12

/-- The frame is too short for its own header: `LEN < 4` in the variant of 30 R62. -/
def headerCut (cfg : Cfg) (et : Bool) (len : Word) : Bool :=
  countsUs cfg et && decide (len.toNat < 4)

/-- `TS = TS_SEC * 1000000 + (HONOUR_US ? TS_USEC : 0)` (10_state R14). -/
def timestamp (cfg : Cfg) (sec usec : Word) : Dword :=
  sec.setWidth 64 * 1000000 + (if cfg.honourUs then usec.setWidth 64 else 0)

end Sys2Proof.Machine
end

