-- ==== Sys2Proof/Machine/Ops.lean ====
section
/-! DEFINITION. The named operations every meaning is written in: access to the frame buffer (00_scope R8), the cursor
operations (40_cursor), the AS decoder (42), the supplier's read (20 R41), and the ends of a `NEXT`: the abort
and the delivery of a Record (41 R104, 60 R190), the stream-fatal end (41 R101, R103), and beside them the
acceptance of the next `NEXT`, which is how a caller resumes (41 R100, 60 R192). -/

namespace Sys2Proof.Machine

/-- The kinds a decoder inside a frame can raise (60 R180). -/
inductive Raise
  | truncatedInput
  | malformedRecord
  | malformedAttribute
  deriving DecidableEq, Repr

/-- The result kind of a raised condition. -/
def Raise.kind : Raise → ResKind
  | .truncatedInput => .truncatedInput
  | .malformedRecord => .malformedRecord
  | .malformedAttribute => .malformedAttribute

/-- Why an operation stops: a condition raised by the frame, or one of the model's own stops. -/
inductive Stop
  | raised (k : Raise)
  | faulted (f : Fault)
  | refused (r : Refusal)
  deriving DecidableEq, Repr

/-- An operation: from a state to a value and a state, or to a stop and the state it was met in. -/
abbrev Op (α : Type) := EStateM Stop State α

/-- `raise K(info)` (00_scope R8, 60 R190); the info is not kept (60 R181). -/
def raise {α : Type} (k : Raise) : Op α :=
  fun s => .error (.raised k) s

/-- `x[NAME]`: every read by a rule of a register that may hold no value. `"none" means the register holds no value and a read
of it before a write is a fault of the model` (10_state, heading text; 70 R210). -/
def readReq {α : Type} (r : RegName) (get : State → Option α) : Op α := fun s =>
  match get s with
  | some v => .ok v s
  | none => .error (.faulted (.noValue r)) s

/-- `x[NAME] <- v`, as an update of the state. -/
def update (f : State → State) : Op Unit := fun s =>
  .ok () (f s)

/-- A parameter of `Cfg`. -/
def askCfg {α : Type} (f : Cfg → α) : Op α := fun s =>
  .ok (f s.cfg) s

/-- `LEN` includes the microsecond field of this frame (30 R62); `ET` is read in the variant only. -/
def readCountsUs : Op Bool := do
  let variant ← askCfg Cfg.lenCountsUs
  if variant then readReq .et State.et else pure false

/-- The frame is too short for its own header: `LEN < 4` in the variant of 30 R62. -/
def readHeaderCut : Op Bool := do
  let us ← readCountsUs
  if us then do
    let len ← readReq .len State.len
    pure (decide (len.toNat < 4))
  else pure false

/-! ## The frame buffer -/

/-- `MemRead(a, n)` (00_scope R8): the run, or a fault where a byte of it has no value. -/
def memRead (a n : Nat) : Op Run := fun s =>
  match s.fb.readRun a n with
  | some b => .ok b s
  | none =>
    let h := s.fb.firstHole a n
    .error (.faulted (if s.cfg.fbCap ≤ h then .fbRange h else .fbNoValue h)) s

/-- `MemWrite(a, len(b), b)` (00_scope R8). -/
def memWrite (a : Nat) (b : Run) : Op Unit := fun s =>
  if s.cfg.fbCap < a + b.length then .error (.faulted (.fbRange s.cfg.fbCap)) s
  else .ok () { s with fb := s.fb.write a b }

/-! ## The cursor operations (40_cursor) -/

/-- The common law of all cursor operations (40 R90). -/
def extract (n : Nat) : Op Run := do
  let c ← readReq .cur State.cur
  let l ← readReq .lim State.lim
  if l < c + n then
    raise .truncatedInput
  else
    let b ← memRead c n
    update fun s => { s with cur := some (c + n) }
    pure b

/-- `U8()` (40 R91). -/
def u8 : Op Byte := do
  let b ← extract 1
  pure (BitVec.ofNat 8 (be b))

/-- `U16()` (40 R92). -/
def u16 : Op Half := do
  let b ← extract 2
  pure (BitVec.ofNat 16 (be b))

/-- `U32()` (40 R93). -/
def u32 : Op Word := do
  let b ← extract 4
  pure (BitVec.ofNat 32 (be b))

/-- `U64()` (40 R94). -/
def u64 : Op Dword := do
  let b ← extract 8
  pure (BitVec.ofNat 64 (be b))

/-- `BYTES(n)` (40 R95). -/
def bytes (n : Nat) : Op Run :=
  extract n

/-- `ADDR(w)` (40 R96); a width outside 4 and 16 is no form of the operation and is refused. -/
def addr (w : Nat) : Op Run :=
  if w = 4 ∨ w = 16 then bytes w else fun s => .error (.refused (.addrWidth w)) s

/-- `REST()` (40 R97). -/
def rest : Op Run := do
  let c ← readReq .cur State.cur
  let l ← readReq .lim State.lim
  bytes (l - c)

/-- `AS(w)` (42 R120): the width test comes before any read. -/
def asNumber (w : Nat) : Op ASNumber :=
  if w = 2 then do
    let v ← u16
    pure (.as2 v)
  else if w = 4 then do
    let v ← u32
    pure (.as4 v)
  else if w = 0 then
    pure .absent
  else
    raise .malformedRecord

/-- The address width an address-family field selects, written to `AFW`; any other value is `MalformedRecord`
(46 R160, 47 R171, 45 R146, 60 R186). -/
def selectAf (af : Half) : Op Unit := do
  let w ← askCfg fun c => afWidth c af
  match w with
  | some w => update fun s => { s with afw := some w }
  | none => raise .malformedRecord

/-- `repeat n times: list ← list ++ [op]` (45 R147): exactly `n` elements, each where the previous one stopped. -/
def repeated {α : Type} : Nat → Op α → Op (List α)
  | 0, _ => pure []
  | n + 1, op => do
    let a ← op
    let as ← repeated n op
    pure (a :: as)

/-- `hdr` of the Record (10_state R22). -/
def frameHdr : Op FrameHdr := do
  let ts ← readReq .ts State.ts
  let typ ← readReq .typ State.typ
  let sub ← readReq .subtyp State.subtyp
  pure ⟨ts, typ, sub⟩

/-! ## The supplier -/

/-- What `SrcRead(n)` answers (20 R41); `pending` is a supplier that does not answer. -/
inductive SrcAnswer
  | ok (b : Run)
  | eos (b : Run)
  | ioerr (code : Nat) (b : Run)
  | pending
  deriving DecidableEq, Repr

/-- `SrcRead(n)` (20 R41): the next `n` bytes, or all that are left with the terminal mark; the bytes are gone from the
supplier and counted in `SPOS`. A supplier that never answers has given no byte: nothing is gone and nothing counted, so a
reset that abandons the request leaves all of them to be read again (DESIGN CHOICE, assumption 26). -/
def srcRead (n : Nat) (s : State) : SrcAnswer × State :=
  if n ≤ s.src.length then
    (.ok (s.src.take n), { s with src := s.src.drop n, spos := s.spos + BitVec.ofNat 64 n })
  else
    let drained := { s with src := [], spos := s.spos + BitVec.ofNat 64 s.src.length }
    match s.srcEnd with
    | .eos => (.eos s.src, drained)
    | .ioerr e => (.ioerr e s.src, drained)
    | .silent => (.pending, s)

/-! ## How a NEXT ends, and how the next one begins -/

/-- The registers that hold values only while a frame is decoded are none again: `FB`, `CUR`, `LIM`, group X (10_state
R15, R16, R18; 60 R191). -/
def State.leaveFrame (s : State) : State :=
  { s with
    fb := [], cur := none, lim := none, cls := none, asw := none, afw := none, ap := none,
    atCur := none, atLim := none, atAsw := none, focus := .frame, built := [] }

/-- The tail of 41 R104, shared by the delivery of a Record and by the abort of 60 R190: `REC` and `RES` written, `FSM
<- AwaitingHeader`, `BUSY <- 0`. Group H stays (10_state R13). -/
def endFrame (k : ResKind) (r : Option Record) (s : State) : State :=
  { s.leaveFrame with record := r, res := some k, fsm := .awaitingHeader, busy := false }

/-- A Record is delivered (41 R104). -/
def deliver (r : Record) (s : State) : State :=
  endFrame .record (some r) s

/-- The abort: a per-frame error is taken (60 R190, R191). -/
def abort (k : ResKind) (s : State) : State :=
  endFrame k none s

/-- What an operation of the block comes to as a step: it goes on with its value, a condition of the frame aborts the frame
(60 R190), a stop of the model stops the machine. -/
def outcome {α : Type} (r : EStateM.Result Stop State α) (k : α → State → Host.Outcome State Fault Refusal) :
    Host.Outcome State Fault Refusal :=
  match r with
  | .ok a s => k a s
  | .error (.raised q) s => .next (abort q.kind s)
  | .error (.faulted f) _ => .fault f
  | .error (.refused x) _ => .refused x

/-- A stream-fatal result is taken (41 R101, R103): `TERM`, `FSM <- Done`, `RES`, `BUSY <- 0`; `IOCODE` keeps its value
unless a supplier failure gives one. -/
def endStream (t : Term) (code : Option Nat) (s : State) : State :=
  { s.leaveFrame with
    term := t, iocode := code.orElse (fun _ => s.iocode), fsm := .done, res := some t.replay, record := none,
    busy := false }

/-- `RES <- x[TERM]`, `BUSY <- 0`: the replay in `Done` (41 R100). -/
def replay (s : State) : State :=
  { s with res := some s.term.replay, busy := false }

/-- `REC <- none; TS_SEC, TYPE, SUBTYPE, LEN, ET, HLEN, TS_USEC, TS <- none` (41 R100). -/
def State.forget (s : State) : State :=
  { s with
    record := none, tsSec := none, typ := none, subtyp := none, len := none, et := none, hlen := none,
    tsUsec := none, ts := none }

/-- `NEXT` is issued (41 R100). At `BUSY = 1` it is undefined and refused (70 R215). In `Done` the stream-fatal result is
replayed at once; else the stream reader takes over with `BUSY = 1`. -/
def acceptNext (s : State) : Host.Outcome State Fault Refusal :=
  if s.busy then .refused .nextWhileBusy
  else
    let s' := { s.forget with busy := true }
    if s.fsm = .done then .next (replay s') else .next s'

/-- Reset (70 R210, R211): every register at its reset value. The configuration, the supplier's stream and the caller's
further acts are not the block's and stay; what a request that it abandons has taken is decided in `srcRead` (DESIGN CHOICE,
assumption 26). -/
def resetBlock (s : State) : State :=
  { State.reset with cfg := s.cfg, src := s.src, srcEnd := s.srcEnd, calls := s.calls }

end Sys2Proof.Machine
end

