-- ==== Sys2Proof/Machine/Caller.lean ====
section
/-! DEFINITION. The caller (60_exceptions R204): reading the caller-visible registers (10_state R20), and what its next act does
to a step. -/

namespace Sys2Proof.Machine

/-- What a caller's read gives: the register's value, or that it holds none. -/
inductive RegView
  | none
  | code (v : BitVec 3)
  | iocode (v : Nat)
  | bits (w : Nat) (v : Nat)
  | record (r : Record)
  deriving DecidableEq, Repr

/-- The view of a register of `w` bits that may hold no value. -/
def viewBits {w : Nat} (v : Option (BitVec w)) : RegView :=
  match v with
  | some x => .bits w x.toNat
  | none => .none

/-- The value a register shows (10_state R12, R13, R19, R21). -/
def viewReg (r : CallerReg) (s : State) : RegView :=
  match r with
  | .res => match s.res with
    | some k => .code k.code
    | none => .none
  | .term => .code s.term.code
  | .iocode => match s.iocode with
    | some e => .iocode e
    | none => .none
  | .spos => .bits 64 s.spos.toNat
  | .tsSec => viewBits s.tsSec
  | .typ => viewBits s.typ
  | .subtyp => viewBits s.subtyp
  | .len => viewBits s.len
  | .et => match s.et with
    | some b => .bits 1 b.toNat
    | none => .none
  | .hlen => match s.hlen with
    | some h => .bits 5 h
    | none => .none
  | .tsUsec => viewBits s.tsUsec
  | .ts => viewBits s.ts
  | .record => match s.record with
    | some x => .record x
    | none => .none

/-- The registers whose read at `BUSY = 1` is undefined (70 R215): `RES`, `REC` and group H. -/
def CallerReg.guarded : CallerReg → Bool
  | .term | .iocode | .spos => false
  | .res | .record | .tsSec | .typ | .subtyp | .len | .et | .hlen | .tsUsec | .ts => true

/-- A caller's read of a register (10_state R20); it changes nothing. -/
def readReg (r : CallerReg) (s : State) : Host.Outcome RegView Fault Refusal :=
  if s.busy && r.guarded then .refused (.readWhileBusy r) else .next (viewReg r s)

/-- What the caller's act leaves to do: the step is decided, or the block runs in the state given. -/
inductive Heard
  | settled (o : Host.Outcome State Fault Refusal)
  | run (s : State)

/-- The caller's part of a step. Past the end of its acts it issues `NEXT` whenever the block is idle, and a caller that has
stopped never does again (assumption 4). A `NEXT` is a step of its own, and so are a register read and a reset. -/
def hearCaller (s : State) : Heard :=
  match s.calls with
  | [] => if s.busy then .run s else .settled (acceptNext s)
  | .hold :: cs => if s.busy then .run { s with calls := cs } else .settled (.next { s with calls := cs })
  | .stop :: _ => if s.busy then .run s else .settled (.next s)
  | .next :: cs => .settled (acceptNext { s with calls := cs })
  | .reset :: cs => .settled (.next (resetBlock { s with calls := cs }))
  | .read r :: cs =>
    match readReg r s with
    | .next _ => .settled (.next { s with calls := cs })
    | .fault f => .settled (.fault f)
    | .refused x => .settled (.refused x)

end Sys2Proof.Machine
end

