-- ==== Sys2Proof/Machine/Sequencer.lean ====
section
/-! DEFINITION. Running a body sequencer in state `Dispatching` (41_frame_parser R104), and running one unit operation by itself
(assumption 7). -/

namespace Sys2Proof.Machine

/-- The entry of a class's sequencer (41 R104, 10_state R16): `CLASS`, `CUR <- HLEN`, `LIM` at the frame's end, and the
columns of 30 R63. `LIM` is `HLEN + LEN`, or `12 + LEN` in the variant of 30 R62. -/
def enterClass (c : RecordClass) : Op Unit := do
  let h ← readReq .hlen State.hlen
  let n ← readReq .len State.len
  let us ← readCountsUs
  update fun s =>
    { s with
      cls := some c
      cur := some h
      lim := some (if us then 12 + n.toNat else h + n.toNat)
      asw := classAsw c
      afw := classAfw c
      ap := some (classAp c) }

/-- The outcome of a sequencer: its Record is delivered (41 R104), or the frame is aborted. -/
def finish (r : EStateM.Result Stop State Record) : Host.Outcome State Fault Refusal :=
  outcome r fun rec' s => .next (deliver rec' s)

/-- "run the body sequencer of x[CLASS]" (41 R104). -/
def runClass (c : RecordClass) (body : Op Record) (s : State) : Host.Outcome State Fault Refusal :=
  finish ((do enterClass c; body : Op Record) s)

/-- One unit operation by itself: its element joins the list being built (00_scope R8, `yield`) and the decode goes on; a
raised condition aborts the frame (60 R190). -/
def runUnit (unit : Op Element) (s : State) : Host.Outcome State Fault Refusal :=
  outcome (unit s) fun e s' => .next { s' with built := s'.built ++ [e] }

end Sys2Proof.Machine
end

