-- ==== Sys2Proof/Machine/Bgp4mp.lean ====
section
/-! DEFINITION. The body sequencers of the BGP4MP family (46_bgp4mp). An extended-timestamp twin runs the sequencer of its plain
type (46 R164). -/

namespace Sys2Proof.Machine

/-- `B4HEAD()` (46 R160). -/
def b4Head : Op B4Head := do
  let asw ← readReq .asw State.asw
  let peerAs ← asNumber asw
  let localAs ← asNumber asw
  let ifindex ← u16
  let af ← u16
  selectAf af
  let afw ← readReq .afw State.afw
  let peerIp ← addr afw
  let localIp ← addr afw
  pure ⟨peerAs, localAs, ifindex, af, peerIp, localIp⟩

/-- BGP4MPStateChange (46 R161). -/
def stateChange : Op Record := do
  let head ← b4Head
  let oldState ← u16
  let newState ← u16
  let hdr ← frameHdr
  pure (.stateChange hdr head oldState newState)

/-- BGP4MPMessage (46 R162): the rest of the body goes to `BgpMsgDecode` with the class's AS width and the `af` read. -/
def message : Op Record := do
  let head ← b4Head
  let payload ← rest
  let asw ← readReq .asw State.asw
  match Config.bgpMsgDecode payload asw head.af with
  | none => raise .malformedRecord
  | some msg => do
    let hdr ← frameHdr
    pure (.message hdr head msg)

/-- Meaning of B4.SC (46 R161). -/
def execB4Sc (s : State) : Host.Outcome State Fault Refusal :=
  runClass .b4Sc stateChange s

/-- Meaning of B4.SC.ET (46 R161, R164). -/
def execB4ScEt (s : State) : Host.Outcome State Fault Refusal :=
  runClass .b4Sc stateChange s

/-- Meaning of B4.MSG (46 R162). -/
def execB4Msg (s : State) : Host.Outcome State Fault Refusal :=
  runClass .b4Msg message s

/-- Meaning of B4.MSG.ET (46 R162, R164). -/
def execB4MsgEt (s : State) : Host.Outcome State Fault Refusal :=
  runClass .b4Msg message s

/-- Meaning of B4.MSG4 (46 R162). -/
def execB4Msg4 (s : State) : Host.Outcome State Fault Refusal :=
  runClass .b4Msg4 message s

/-- Meaning of B4.MSG4.ET (46 R162, R164). -/
def execB4Msg4Et (s : State) : Host.Outcome State Fault Refusal :=
  runClass .b4Msg4 message s

/-- Meaning of B4.SC4 (46 R161). -/
def execB4Sc4 (s : State) : Host.Outcome State Fault Refusal :=
  runClass .b4Sc4 stateChange s

/-- Meaning of B4.SC4.ET (46 R161, R164). -/
def execB4Sc4Et (s : State) : Host.Outcome State Fault Refusal :=
  runClass .b4Sc4 stateChange s

end Sys2Proof.Machine
end

