-- ==== Sys2Proof/Machine/Envelope.lean ====
section
/-! DEFINITION. The envelope sequencers of OSPFv2, OSPFv3 and IS-IS (47_ospf_isis). The subtype is not examined. -/

namespace Sys2Proof.Machine

/-- OSPFv2 (47 R170): remote first, both addresses 4 bytes. -/
def ospfv2 : Op Record := do
  let remote ← addr 4
  let loc ← addr 4
  let payload ← rest
  let hdr ← frameHdr
  pure (.ospfv2 hdr remote loc payload)

/-- OSPFv3 (47 R171). -/
def ospfv3 : Op Record := do
  let af ← u16
  selectAf af
  let afw ← readReq .afw State.afw
  let remote ← addr afw
  let loc ← addr afw
  let payload ← rest
  let hdr ← frameHdr
  pure (.ospfv3 hdr af remote loc payload)

/-- IS-IS (47 R172): it cannot fail. -/
def isis : Op Record := do
  let payload ← rest
  let hdr ← frameHdr
  pure (.isis hdr payload)

/-- Meaning of OSPF2 (47 R170). -/
def execOspf2 (s : State) : Host.Outcome State Fault Refusal :=
  runClass .ospf2 ospfv2 s

/-- Meaning of OSPF3 (47 R171). -/
def execOspf3 (s : State) : Host.Outcome State Fault Refusal :=
  runClass .ospf3 ospfv3 s

/-- Meaning of OSPF3.ET (47 R171). -/
def execOspf3Et (s : State) : Host.Outcome State Fault Refusal :=
  runClass .ospf3 ospfv3 s

/-- Meaning of ISIS (47 R172). -/
def execIsis (s : State) : Host.Outcome State Fault Refusal :=
  runClass .isis isis s

/-- Meaning of ISIS.ET (47 R172). -/
def execIsisEt (s : State) : Host.Outcome State Fault Refusal :=
  runClass .isis isis s

end Sys2Proof.Machine
end

