-- ==== Sys2Proof/Machine/Attr.lean ====
section
/-! DEFINITION. The BGP path-attribute sequence iterator (44_attr_iterator). -/

namespace Sys2Proof.Machine

/-- One attribute whose flags byte is at `AT_CUR`, in the form the flags select (44 R131): the header must fit the window,
then the declared length must; `AT_CUR` advances only when both do. -/
def attrForm (flags : Byte) (ext : Bool) : Op Attr := do
  let c ← readReq .atCur State.atCur
  let l ← readReq .atLim State.atLim
  let w ← readReq .atAsw State.atAsw
  let hl := attrHeaderLen ext
  if l - c < hl then
    raise .malformedAttribute
  else
    let ty ← memRead (c + 1) 1
    let ab ← memRead (c + 2) (hl - 2)
    let alen := be ab
    if l - c < hl + alen then
      raise .malformedAttribute
    else
      let value ← memRead (c + hl) alen
      update fun s => { s with atCur := some (c + hl + alen) }
      pure ⟨flags, BitVec.ofNat 8 (be ty), BitVec.ofNat 16 alen, value, w⟩

/-- `ATTR.NEXT` (44 R131): `none` is the normal end of the sequence. -/
def attrNext : Op (Option Attr) := do
  let c ← readReq .atCur State.atCur
  let l ← readReq .atLim State.atLim
  if l - c = 0 then
    pure none
  else if l - c < 3 then
    raise .malformedAttribute
  else
    let fb ← memRead c 1
    let flags : Byte := BitVec.ofNat 8 (be fb)
    let ext ← askCfg fun cfg => attrIsExt cfg flags
    let a ← attrForm flags ext
    pure (some a)

/-- The loop of `ATTRS` (44 R130). Every step that yields consumes at least 3 bytes (44 R132), so a bound of the window's
length and one more is never met. -/
def attrLoop : Nat → Op (List Attr)
  | 0 => fun s => .error (.faulted .iteratorBound) s
  | k + 1 => do
    let r ← attrNext
    match r with
    | none => pure []
    | some a => do
      let as ← attrLoop k
      pure (a :: as)

/-- `ATTRS(n, asw)` (44 R130): the main cursor steps over the whole window, or raises; then the window is walked to its
end. -/
def attrs (n asw : Nat) : Op (List Attr) := do
  let start ← readReq .cur State.cur
  let _ ← bytes n
  update fun s => { s with atCur := some start, atLim := some (start + n), atAsw := some asw }
  attrLoop (n + 1)

/-- Meaning of ATTR.SHORT (30 R70, 44 R131): a 3-byte header with a 1-byte length. -/
def execAttrShort (flags : Byte) (s : State) : Host.Outcome State Fault Refusal :=
  runUnit (do
    let a ← attrForm flags false
    pure (.attr a)) s

/-- Meaning of ATTR.EXT (30 R70, 44 R131): a 4-byte header with a 2-byte length. -/
def execAttrExt (flags : Byte) (s : State) : Host.Outcome State Fault Refusal :=
  runUnit (do
    let a ← attrForm flags true
    pure (.attr a)) s

end Sys2Proof.Machine
end

