-- ==== Sys2Proof/Machine/Nlri.lean ====
section
/-! DEFINITION. The NLRI prefix decoder with zero-padding (43_nlri_prefix). -/

namespace Sys2Proof.Machine

/-- The tail mask (43 R126): for `r = L mod 8` not zero, byte `n - 1` keeps its `r` most significant bits. -/
def maskTail (bits n : Nat) (a : Run) : Run :=
  if bits % 8 = 0 then a else maskAt (n - 1) (headMask (bits % 8)) a

/-- `NLRI(afw)` after its length byte (43 R125): range check, address bytes, padding, tail mask. -/
def nlriAfter (bits : Byte) (afw : Nat) : Op Prefix := do
  let mask ← askCfg Cfg.nlriMaskTail
  if 8 * afw < bits.toNat then
    raise .malformedRecord
  else
    let n := ceil8 bits.toNat
    let b ← bytes n
    let a := b ++ zeros (afw - n)
    pure ⟨if mask then maskTail bits.toNat n a else a, bits⟩

/-- `NLRI(afw)` (43 R125). -/
def nlri (afw : Nat) : Op Prefix := do
  let l ← u8
  nlriAfter l afw

/-- Meaning of NLRI (43 R125) at the cursor, with the address width that `AFW` holds. -/
def execNlri (bits : Byte) (s : State) : Host.Outcome State Fault Refusal :=
  runUnit (do
    let _ ← extract 1
    let w ← readReq .afw State.afw
    let p ← nlriAfter bits w
    pure (.pfx p)) s

end Sys2Proof.Machine
end

