-- ==== Sys2Proof/Machine/Peer.lean ====
section
/-! DEFINITION. PeerEntry (30_encoding R68, 45_table_dump R143). -/

namespace Sys2Proof.Machine

/-- `PEER()` after its flags byte, at the widths given (45 R143). It reads and writes neither `AFW` nor `ASW` (42 R122). -/
def peerAfter (flags : Byte) (aw sw : Nat) : Op PeerEntry := do
  let bgpId ← u32
  let a ← addr aw
  let n ← asNumber sw
  pure ⟨flags, bgpId, a, n⟩

/-- `PEER()` (45 R143): the widths come from the entry's own flag bits. -/
def peer : Op PeerEntry := do
  let flags ← u8
  peerAfter flags (peerAddrWidth flags) (peerAsWidth flags)

/-- A PeerEntry form by itself, its flags byte at the cursor. -/
def peerUnit (flags : Byte) (aw sw : Nat) : Op Element := do
  let _ ← extract 1
  let e ← peerAfter flags aw sw
  pure (.peer e)

/-- Meaning of PEER.V4.AS2: 11 bytes (30 R68). -/
def execPeerV4As2 (flags : Byte) (s : State) : Host.Outcome State Fault Refusal :=
  runUnit (peerUnit flags 4 2) s

/-- Meaning of PEER.V6.AS2: 23 bytes (30 R68). -/
def execPeerV6As2 (flags : Byte) (s : State) : Host.Outcome State Fault Refusal :=
  runUnit (peerUnit flags 16 2) s

/-- Meaning of PEER.V4.AS4: 13 bytes (30 R68). -/
def execPeerV4As4 (flags : Byte) (s : State) : Host.Outcome State Fault Refusal :=
  runUnit (peerUnit flags 4 4) s

/-- Meaning of PEER.V6.AS4: 25 bytes (30 R68). -/
def execPeerV6As4 (flags : Byte) (s : State) : Host.Outcome State Fault Refusal :=
  runUnit (peerUnit flags 16 4) s

end Sys2Proof.Machine
end

