-- ==== Sys2Proof/Machine/TableDump.lean ====
section
/-! DEFINITION. The body sequencers of TableDump and of the TableDumpV2 family (45_table_dump). -/

namespace Sys2Proof.Machine

/-- TableDump (45 R140); the peer's address has the prefix's width (R141). -/
def tableDump : Op Record := do
  let view ← u16
  let seq ← u16
  let afw ← readReq .afw State.afw
  let prefixAddr ← addr afw
  let prefixLen ← u8
  let status ← u8
  let otime ← u32
  let peerAddr ← addr afw
  let peerAs ← asNumber 2
  let alen ← u16
  let as ← attrs alen.toNat 2
  let hdr ← frameHdr
  pure (.tableDump hdr view seq prefixAddr prefixLen status otime peerAddr peerAs as)

/-- TableDumpV2PeerIndexTable (45 R142). -/
def peerIndexTable : Op Record := do
  let collectorId ← u32
  let vlen ← u16
  let viewName ← bytes vlen.toNat
  let pcount ← u16
  let peers ← repeated pcount.toNat peer
  let hdr ← frameHdr
  pure (.peerIndexTable hdr collectorId viewName peers)

/-- The path identifier of a RIBEntry, read only when `AP = 1` (45 R144). -/
def pathId : Op (Option Word) := do
  let ap ← readReq .ap State.ap
  if ap then do
    let p ← u32
    pure (some p)
  else
    pure none

/-- `RIBENTRY()` (45 R144). -/
def ribEntry : Op RIBEntry := do
  let peerIndex ← u16
  let otime ← u32
  let pid ← pathId
  let alen ← u16
  let as ← attrs alen.toNat 4
  pure ⟨peerIndex, otime, pid, as⟩

/-- TableDumpV2RIB (45 R145). -/
def rib : Op Record := do
  let seq ← u32
  let afw ← readReq .afw State.afw
  let p ← nlri afw
  let ecount ← u16
  let entries ← repeated ecount.toNat ribEntry
  let hdr ← frameHdr
  pure (.rib hdr seq p entries)

/-- TableDumpV2RIBGeneric (45 R146): the address width comes from `afi`. -/
def ribGeneric : Op Record := do
  let seq ← u32
  let afi ← u16
  let safi ← u8
  selectAf afi
  let afw ← readReq .afw State.afw
  let p ← nlri afw
  let ecount ← u16
  let entries ← repeated ecount.toNat ribEntry
  let hdr ← frameHdr
  pure (.ribGeneric hdr seq afi safi p entries)

/-- Meaning of TD.V4 (45 R140). -/
def execTdV4 (s : State) : Host.Outcome State Fault Refusal :=
  runClass .tdV4 tableDump s

/-- Meaning of TD.V6 (45 R140). -/
def execTdV6 (s : State) : Host.Outcome State Fault Refusal :=
  runClass .tdV6 tableDump s

/-- Meaning of TD2.PIT (45 R142). -/
def execTd2Pit (s : State) : Host.Outcome State Fault Refusal :=
  runClass .td2Pit peerIndexTable s

/-- Meaning of TD2.RIB.V4U (45 R145). -/
def execTd2RibV4u (s : State) : Host.Outcome State Fault Refusal :=
  runClass .td2RibV4u rib s

/-- Meaning of TD2.RIB.V4M (45 R145). -/
def execTd2RibV4m (s : State) : Host.Outcome State Fault Refusal :=
  runClass .td2RibV4m rib s

/-- Meaning of TD2.RIB.V6U (45 R145). -/
def execTd2RibV6u (s : State) : Host.Outcome State Fault Refusal :=
  runClass .td2RibV6u rib s

/-- Meaning of TD2.RIB.V6M (45 R145). -/
def execTd2RibV6m (s : State) : Host.Outcome State Fault Refusal :=
  runClass .td2RibV6m rib s

/-- Meaning of TD2.RIBG (45 R146). -/
def execTd2Ribg (s : State) : Host.Outcome State Fault Refusal :=
  runClass .td2Ribg ribGeneric s

/-- Meaning of TD2.RIB.V4U.AP (45 R145). -/
def execTd2RibV4uAp (s : State) : Host.Outcome State Fault Refusal :=
  runClass .td2RibV4uAp rib s

/-- Meaning of TD2.RIB.V4M.AP (45 R145). -/
def execTd2RibV4mAp (s : State) : Host.Outcome State Fault Refusal :=
  runClass .td2RibV4mAp rib s

/-- Meaning of TD2.RIB.V6U.AP (45 R145). -/
def execTd2RibV6uAp (s : State) : Host.Outcome State Fault Refusal :=
  runClass .td2RibV6uAp rib s

/-- Meaning of TD2.RIB.V6M.AP (45 R145). -/
def execTd2RibV6mAp (s : State) : Host.Outcome State Fault Refusal :=
  runClass .td2RibV6mAp rib s

/-- Meaning of TD2.RIBG.AP (45 R146). -/
def execTd2RibgAp (s : State) : Host.Outcome State Fault Refusal :=
  runClass .td2RibgAp ribGeneric s

end Sys2Proof.Machine
end

