-- ==== Sys2Proof/Machine/Dispatch.lean ====
section
/-! DEFINITION. The dispatch of the instructions to their meanings: one arm per row of opcode_table.json. -/

namespace Sys2Proof.Machine

def exec (i : Instr) (s : State) : Host.Outcome State Fault Refusal :=
  match i with
  | .tdV4 => Sys2Proof.Machine.execTdV4 s
  | .tdV6 => Sys2Proof.Machine.execTdV6 s
  | .td2Pit => Sys2Proof.Machine.execTd2Pit s
  | .td2RibV4u => Sys2Proof.Machine.execTd2RibV4u s
  | .td2RibV4m => Sys2Proof.Machine.execTd2RibV4m s
  | .td2RibV6u => Sys2Proof.Machine.execTd2RibV6u s
  | .td2RibV6m => Sys2Proof.Machine.execTd2RibV6m s
  | .td2Ribg => Sys2Proof.Machine.execTd2Ribg s
  | .td2RibV4uAp => Sys2Proof.Machine.execTd2RibV4uAp s
  | .td2RibV4mAp => Sys2Proof.Machine.execTd2RibV4mAp s
  | .td2RibV6uAp => Sys2Proof.Machine.execTd2RibV6uAp s
  | .td2RibV6mAp => Sys2Proof.Machine.execTd2RibV6mAp s
  | .td2RibgAp => Sys2Proof.Machine.execTd2RibgAp s
  | .b4Sc => Sys2Proof.Machine.execB4Sc s
  | .b4ScEt => Sys2Proof.Machine.execB4ScEt s
  | .b4Msg => Sys2Proof.Machine.execB4Msg s
  | .b4MsgEt => Sys2Proof.Machine.execB4MsgEt s
  | .b4Msg4 => Sys2Proof.Machine.execB4Msg4 s
  | .b4Msg4Et => Sys2Proof.Machine.execB4Msg4Et s
  | .b4Sc4 => Sys2Proof.Machine.execB4Sc4 s
  | .b4Sc4Et => Sys2Proof.Machine.execB4Sc4Et s
  | .ospf2 _ => Sys2Proof.Machine.execOspf2 s
  | .ospf3 _ => Sys2Proof.Machine.execOspf3 s
  | .ospf3Et _ => Sys2Proof.Machine.execOspf3Et s
  | .isis _ => Sys2Proof.Machine.execIsis s
  | .isisEt _ => Sys2Proof.Machine.execIsisEt s
  | .peerV4As2 flags => Sys2Proof.Machine.execPeerV4As2 flags s
  | .peerV6As2 flags => Sys2Proof.Machine.execPeerV6As2 flags s
  | .peerV4As4 flags => Sys2Proof.Machine.execPeerV4As4 flags s
  | .peerV6As4 flags => Sys2Proof.Machine.execPeerV6As4 flags s
  | .attrShort flags => Sys2Proof.Machine.execAttrShort flags s
  | .attrExt flags => Sys2Proof.Machine.execAttrExt flags s
  | .nlri bits => Sys2Proof.Machine.execNlri bits s

end Sys2Proof.Machine
end

