-- ==== Sys2Proof/WellFormed.lean ====
section
/-! DEFINITION. Well-formed instructions (an element's carried byte agrees with its row of opcode_table.json) and
well-formed configurations (no two rows of the dispatch map meet, 41 R105; the ADD-PATH codes fill the sub-range,
30 R64). -/

namespace Sys2Proof

/-- The instruction's carried byte selects its own row: PeerEntry rows by `flags[1:0]` (30 R68), attribute rows
by `flags & ATTR_EXTLEN` (30 R70). A frame row and an NLRI row hearCaller every operand. -/
def Instr.wf (cfg : Cfg) : Instr → Bool
  | .peerV4As2 f => f &&& 0x03 == 0x00
  | .peerV6As2 f => f &&& 0x03 == 0x01
  | .peerV4As4 f => f &&& 0x03 == 0x02
  | .peerV6As4 f => f &&& 0x03 == 0x03
  | .attrShort f => f &&& cfg.attrExtlen == 0
  | .attrExt f => f &&& cfg.attrExtlen != 0
  | .tdV4 | .tdV6 | .td2Pit | .td2RibV4u | .td2RibV4m | .td2RibV6u | .td2RibV6m | .td2Ribg => true
  | .td2RibV4uAp | .td2RibV4mAp | .td2RibV6uAp | .td2RibV6mAp | .td2RibgAp => true
  | .b4Sc | .b4ScEt | .b4Msg | .b4MsgEt | .b4Msg4 | .b4Msg4Et | .b4Sc4 | .b4Sc4Et => true
  | .ospf2 _ | .ospf3 _ | .ospf3Et _ | .isis _ | .isisEt _ => true
  | .nlri _ => true

/-- The nine type codes are distinct, as the defaults are (41 R105). -/
def Cfg.typesDistinct (cfg : Cfg) : Bool :=
  decide [cfg.tOspfv2, cfg.tTableDump, cfg.tTableDumpV2, cfg.tBgp4mp, cfg.tBgp4mpEt, cfg.tIsis, cfg.tIsisEt,
    cfg.tOspfv3, cfg.tOspfv3Et].Nodup

/-- Inside each type the subtype codes are distinct (41 R105). -/
def Cfg.subtypesDistinct (cfg : Cfg) : Bool :=
  decide [cfg.stTdV4, cfg.stTdV6].Nodup &&
  decide [cfg.stPit, cfg.stRibV4u, cfg.stRibV4m, cfg.stRibV6u, cfg.stRibV6m, cfg.stRibg, cfg.stRibV4uAp,
    cfg.stRibV4mAp, cfg.stRibV6uAp, cfg.stRibV6mAp, cfg.stRibgAp].Nodup &&
  decide [cfg.stB4Sc, cfg.stB4Msg, cfg.stB4Msg4, cfg.stB4Sc4].Nodup

/-- A subtype lies in the ADD-PATH sub-range (30 R64). -/
def Cfg.inApRange (cfg : Cfg) (sub : Half) : Bool :=
  decide (cfg.apLo ≤ sub) && decide (sub ≤ cfg.apHi)

/-- The sub-range and the class codes agree: every ADD-PATH code lies in it and no other TABLE_DUMP_V2 code does
(30 R64). -/
def Cfg.apCoherent (cfg : Cfg) : Bool :=
  [cfg.stRibV4uAp, cfg.stRibV4mAp, cfg.stRibV6uAp, cfg.stRibV6mAp, cfg.stRibgAp].all cfg.inApRange &&
  [cfg.stPit, cfg.stRibV4u, cfg.stRibV4m, cfg.stRibV6u, cfg.stRibV6m, cfg.stRibg].all
    fun sub => !cfg.inApRange sub

/-- The twins are the extended-timestamp types and the plain types are not (30 R61, D13). -/
def Cfg.etCoherent (cfg : Cfg) : Bool :=
  [cfg.tBgp4mpEt, cfg.tIsisEt, cfg.tOspfv3Et].all cfg.etTypes.contains &&
  [cfg.tOspfv2, cfg.tTableDump, cfg.tTableDumpV2, cfg.tBgp4mp, cfg.tIsis, cfg.tOspfv3].all
    fun t => !cfg.etTypes.contains t

/-- A configuration the rules of the spec read as they are meant: distinct codes, a coherent ADD-PATH sub-range and
`ET_TYPES`, distinct address families. -/
def Cfg.wf (cfg : Cfg) : Bool :=
  cfg.typesDistinct && cfg.subtypesDistinct && cfg.apCoherent && cfg.etCoherent && cfg.afiV4 != cfg.afiV6

end Sys2Proof
end

