-- ==== Sys2Proof/Decode.lean ====
section
/-! DEFINITION. The decoder, total on any bytes and rejecting by name, and after it the encoder. Frame rows: the dispatch
map of 30_encoding R63 read top to bottom (41 R105). Element rows: 30_encoding R67, R68, R70. -/

namespace Sys2Proof

open Sys2Proof.Machine (be toBe)

/-- One row of the dispatch map (30 R63): the type, the subtype (`none`: not examined), the instruction. -/
structure FrameRow where
  typ : Half
  sub : Option Half
  instr : Half → Instr

/-- The dispatch map of 30 R63 in its order, each type of a row on a line of its own. -/
def frameRows (cfg : Cfg) : List FrameRow :=
  [⟨cfg.tTableDump, some cfg.stTdV4, fun _ => .tdV4⟩,
   ⟨cfg.tTableDump, some cfg.stTdV6, fun _ => .tdV6⟩,
   ⟨cfg.tTableDumpV2, some cfg.stPit, fun _ => .td2Pit⟩,
   ⟨cfg.tTableDumpV2, some cfg.stRibV4u, fun _ => .td2RibV4u⟩,
   ⟨cfg.tTableDumpV2, some cfg.stRibV4m, fun _ => .td2RibV4m⟩,
   ⟨cfg.tTableDumpV2, some cfg.stRibV6u, fun _ => .td2RibV6u⟩,
   ⟨cfg.tTableDumpV2, some cfg.stRibV6m, fun _ => .td2RibV6m⟩,
   ⟨cfg.tTableDumpV2, some cfg.stRibg, fun _ => .td2Ribg⟩,
   ⟨cfg.tTableDumpV2, some cfg.stRibV4uAp, fun _ => .td2RibV4uAp⟩,
   ⟨cfg.tTableDumpV2, some cfg.stRibV4mAp, fun _ => .td2RibV4mAp⟩,
   ⟨cfg.tTableDumpV2, some cfg.stRibV6uAp, fun _ => .td2RibV6uAp⟩,
   ⟨cfg.tTableDumpV2, some cfg.stRibV6mAp, fun _ => .td2RibV6mAp⟩,
   ⟨cfg.tTableDumpV2, some cfg.stRibgAp, fun _ => .td2RibgAp⟩] ++
  [⟨cfg.tBgp4mp, some cfg.stB4Sc, fun _ => .b4Sc⟩,
   ⟨cfg.tBgp4mpEt, some cfg.stB4Sc, fun _ => .b4ScEt⟩,
   ⟨cfg.tBgp4mp, some cfg.stB4Msg, fun _ => .b4Msg⟩,
   ⟨cfg.tBgp4mpEt, some cfg.stB4Msg, fun _ => .b4MsgEt⟩,
   ⟨cfg.tBgp4mp, some cfg.stB4Msg4, fun _ => .b4Msg4⟩,
   ⟨cfg.tBgp4mpEt, some cfg.stB4Msg4, fun _ => .b4Msg4Et⟩,
   ⟨cfg.tBgp4mp, some cfg.stB4Sc4, fun _ => .b4Sc4⟩,
   ⟨cfg.tBgp4mpEt, some cfg.stB4Sc4, fun _ => .b4Sc4Et⟩,
   ⟨cfg.tOspfv2, none, fun sub => .ospf2 sub⟩,
   ⟨cfg.tOspfv3, none, fun sub => .ospf3 sub⟩,
   ⟨cfg.tOspfv3Et, none, fun sub => .ospf3Et sub⟩,
   ⟨cfg.tIsis, none, fun sub => .isis sub⟩,
   ⟨cfg.tIsisEt, none, fun sub => .isisEt sub⟩]

/-- A row matches when the type is its type and the subtype its subtype, or the row says "any" (41 R105). -/
def FrameRow.hits (r : FrameRow) (typ sub : Half) : Bool :=
  r.typ == typ && (r.sub.isNone || r.sub == some sub)

/-- The frame instruction of a (type, subtype) pair: the first matching row, or none (41 R105, 30 R65). -/
def decodeFrame (cfg : Cfg) (typ sub : Half) : Option Instr :=
  ((frameRows cfg).find? fun r => r.hits typ sub).map fun r => r.instr sub

/-- `Dispatch(t, s)` of 41 R105: a class or none. -/
def dispatchClass (cfg : Cfg) (typ sub : Half) : Option RecordClass :=
  (decodeFrame cfg typ sub).bind Instr.recordClass

/-- The PeerEntry form that `flags[1:0]` selects (30 R68); bit 0 is the least significant (00_scope R6). -/
def decodePeer (flags : Byte) : Instr :=
  match flags.getLsbD 0, flags.getLsbD 1 with
  | false, false => .peerV4As2 flags
  | true, false => .peerV6As2 flags
  | false, true => .peerV4As4 flags
  | true, true => .peerV6As4 flags

/-- The attribute form that `flags & ATTR_EXTLEN` selects (30 R70). -/
def decodeAttr (cfg : Cfg) (flags : Byte) : Instr :=
  if flags &&& cfg.attrExtlen = 0 then .attrShort flags else .attrExt flags

/-- Every length byte selects the one NLRI row (30 R67). -/
def decodeNlri (bits : Byte) : Instr :=
  .nlri bits

/-- Why the decoder refuses: by name. -/
inductive Reject
  /-- The (type, subtype) is no row of the dispatch map (30 R65). -/
  | unsupportedRecord (typ sub : Half)
  /-- Fewer bytes than the opcode has. -/
  | outOfBytes
  deriving DecidableEq, Repr

/-- The decoder: the instruction met at a place, and the bytes after its opcode. At a frame the opcode is the four
bytes `FB[4:8)`, at an element its first byte. -/
def decode (cfg : Cfg) (place : Place) (bytes : Run) : Except Reject (Instr × Run) :=
  match place, bytes with
  | .frame, a :: b :: c :: d :: rest =>
    let typ : Half := BitVec.ofNat 16 (be [a, b])
    let sub : Half := BitVec.ofNat 16 (be [c, d])
    match decodeFrame cfg typ sub with
    | some i => .ok (i, rest)
    | none => .error (.unsupportedRecord typ sub)
  | .frame, _ => .error .outOfBytes
  | .peer, f :: rest => .ok (decodePeer f, rest)
  | .peer, [] => .error .outOfBytes
  | .attr, f :: rest => .ok (decodeAttr cfg f, rest)
  | .attr, [] => .error .outOfBytes
  | .nlri, l :: rest => .ok (decodeNlri l, rest)
  | .nlri, [] => .error .outOfBytes

/-! ## The encoder -/

/-- The TYPE and SUBTYPE columns of 30 R63, for a frame instruction. -/
def Instr.opcode (cfg : Cfg) : Instr → Option (Half × Half)
  | .tdV4 => some (cfg.tTableDump, cfg.stTdV4)
  | .tdV6 => some (cfg.tTableDump, cfg.stTdV6)
  | .td2Pit => some (cfg.tTableDumpV2, cfg.stPit)
  | .td2RibV4u => some (cfg.tTableDumpV2, cfg.stRibV4u)
  | .td2RibV4m => some (cfg.tTableDumpV2, cfg.stRibV4m)
  | .td2RibV6u => some (cfg.tTableDumpV2, cfg.stRibV6u)
  | .td2RibV6m => some (cfg.tTableDumpV2, cfg.stRibV6m)
  | .td2Ribg => some (cfg.tTableDumpV2, cfg.stRibg)
  | .td2RibV4uAp => some (cfg.tTableDumpV2, cfg.stRibV4uAp)
  | .td2RibV4mAp => some (cfg.tTableDumpV2, cfg.stRibV4mAp)
  | .td2RibV6uAp => some (cfg.tTableDumpV2, cfg.stRibV6uAp)
  | .td2RibV6mAp => some (cfg.tTableDumpV2, cfg.stRibV6mAp)
  | .td2RibgAp => some (cfg.tTableDumpV2, cfg.stRibgAp)
  | .b4Sc => some (cfg.tBgp4mp, cfg.stB4Sc)
  | .b4ScEt => some (cfg.tBgp4mpEt, cfg.stB4Sc)
  | .b4Msg => some (cfg.tBgp4mp, cfg.stB4Msg)
  | .b4MsgEt => some (cfg.tBgp4mpEt, cfg.stB4Msg)
  | .b4Msg4 => some (cfg.tBgp4mp, cfg.stB4Msg4)
  | .b4Msg4Et => some (cfg.tBgp4mpEt, cfg.stB4Msg4)
  | .b4Sc4 => some (cfg.tBgp4mp, cfg.stB4Sc4)
  | .b4Sc4Et => some (cfg.tBgp4mpEt, cfg.stB4Sc4)
  | .ospf2 sub => some (cfg.tOspfv2, sub)
  | .ospf3 sub => some (cfg.tOspfv3, sub)
  | .ospf3Et sub => some (cfg.tOspfv3Et, sub)
  | .isis sub => some (cfg.tIsis, sub)
  | .isisEt sub => some (cfg.tIsisEt, sub)
  | .peerV4As2 _ | .peerV6As2 _ | .peerV4As4 _ | .peerV6As4 _ => none
  | .attrShort _ | .attrExt _ | .nlri _ => none

/-- The byte an element instruction carries. -/
def Instr.elementByte : Instr → Option Byte
  | .peerV4As2 f | .peerV6As2 f | .peerV4As4 f | .peerV6As4 f => some f
  | .attrShort f | .attrExt f => some f
  | .nlri l => some l
  | .tdV4 | .tdV6 | .td2Pit | .td2RibV4u | .td2RibV4m | .td2RibV6u | .td2RibV6m | .td2Ribg => none
  | .td2RibV4uAp | .td2RibV4mAp | .td2RibV6uAp | .td2RibV6mAp | .td2RibgAp => none
  | .b4Sc | .b4ScEt | .b4Msg | .b4MsgEt | .b4Msg4 | .b4Msg4Et | .b4Sc4 | .b4Sc4Et => none
  | .ospf2 _ | .ospf3 _ | .ospf3Et _ | .isis _ | .isisEt _ => none

/-- The opcode bytes of an instruction, in stream order: `TYPE ‖ SUBTYPE` big-endian for a frame (30 R60, R63), the
element's first byte otherwise (30 R67, R68, R70). -/
def encode (cfg : Cfg) (i : Instr) : Run :=
  match i.opcode cfg, i.elementByte with
  | some (typ, sub), _ => toBe 2 typ.toNat ++ toBe 2 sub.toNat
  | none, some b => [b]
  | none, none => []

/-- Format H12 (30 R60): the 12 common header bytes. -/
def encodeHeader (sec : Word) (typ sub : Half) (len : Word) : Run :=
  toBe 4 sec.toNat ++ toBe 2 typ.toNat ++ toBe 2 sub.toNat ++ toBe 4 len.toNat

/-- Format H16 (30 R61): the common header and the microsecond field. -/
def encodeHeaderEt (sec : Word) (typ sub : Half) (len usec : Word) : Run :=
  encodeHeader sec typ sub len ++ toBe 4 usec.toNat

/-! ## The opcode table's words, for the host -/

/-- The place at which the bits of a table row are read. The table's element rows overlap one another and its rows carry
no place, so one is chosen (assumption 8): 32 bits are a frame's `OP`, unless they are one byte followed by
zeros; 9 to 24 bits, which the table gives PeerEntry rows only, are the first bytes of a PeerEntry; a byte 1, 2
or 3 is PeerEntry flags; another byte is attribute flags; no bits at all are the NLRI row, whose mask is empty. -/
def tablePlace (nbits w : Nat) : Place :=
  if nbits = 0 then .nlri
  else if nbits ≤ 8 then (if 1 ≤ w ∧ w ≤ 3 then .peer else .attr)
  else if nbits ≤ 24 then .peer
  else if w < 256 then .peer
  else .frame

/-- The bytes of a table word as the hardware stores them: a frame's `OP` big-endian at `FB[4:8)`, an element's
first byte followed by its later bytes, the longest element being 25 bytes (30 R68). -/
def tableBytes (nbits w : Nat) : Run :=
  match tablePlace nbits w with
  | .frame => toBe 4 w
  | .peer | .attr | .nlri => (List.range 25).map fun k => BitVec.ofNat 8 (w / 256 ^ k)

/-- The instruction the decoder reads from a table word, at the default configuration. -/
def decodeTableWord (nbits w : Nat) : Option Instr :=
  match decode Cfg.default (tablePlace nbits w) (tableBytes nbits w) with
  | .ok (i, _) => some i
  | .error _ => none

end Sys2Proof
end

