-- ==== Sys2Proof/Machine/Place.lean ====
section
/-! DEFINITION. Placing one instruction where the next step fetches it, for the host (assumption 24). -/

namespace Sys2Proof.Machine

/-- A frame whose opcode word is `w` and whose other bits are 0, whole in `FB`, its header decoded, state `Dispatching`. -/
def placeFrame (s : State) (w : Nat) : State :=
  let opcode := toBe 4 w
  let typ : Half := BitVec.ofNat 16 (be (opcode.take 2))
  let sub : Half := BitVec.ofNat 16 (be (opcode.drop 2))
  let et := isEt s.cfg typ
  let header := zeros 4 ++ opcode ++ zeros 4 ++ zeros (headerLen et - 12)
  { s with
    fsm := .dispatching, busy := true, tsSec := some 0, typ := some typ, subtyp := some sub, len := some 0,
    et := some et, hlen := some (headerLen et), tsUsec := some 0, ts := some 0,
    fb := Memory.cells 0 header, focus := .frame }

/-- An element that begins with the given bytes, alone in the body of a frame being decoded; both cursors stand at it, and
the address width for a prefix is 16, which every legal length byte fits. -/
def placeElement (s : State) (place : Place) (element : Run) : State :=
  let frame := zeros 12 ++ element
  { s with
    fsm := .dispatching, busy := true, tsSec := some 0, typ := some 0, subtyp := some 0,
    len := some (BitVec.ofNat 32 element.length), et := some false, hlen := some 12, tsUsec := some 0, ts := some 0,
    fb := Memory.cells 0 frame, cur := some 12, lim := some frame.length, afw := some 16,
    atCur := some 12, atLim := some frame.length, atAsw := some 4, focus := place }

/-- The table word `w` of `nbits` bits, placed where the next step fetches. -/
def placeWord (s : State) (nbits w : Nat) : State :=
  let s := { s with calls := [] }
  match tablePlace nbits w with
  | .frame => placeFrame s w
  | .peer => placeElement s .peer (tableBytes nbits w)
  | .attr => placeElement s .attr (tableBytes nbits w)
  | .nlri => placeElement s .nlri (tableBytes nbits w)

end Sys2Proof.Machine
end

