-- ==== Sys2Proof/Machine/Reader.lean ====
section
/-! DEFINITION. The stream reader (41_frame_parser R101 to R104): the two states that read the supplier, the header decode, and
the fetch of the instruction that state `Dispatching` runs. -/

namespace Sys2Proof.Machine

/-- A step of the stream reader as an outcome. -/
def settle (r : EStateM.Result Stop State Unit) : Host.Outcome State Fault Refusal :=
  outcome r fun _ s => .next s

/-- State `AwaitingHeader` (41 R101). A supplier that does not answer leaves the state as it is (70 R218). -/
def awaitHeader (s : State) : Host.Outcome State Fault Refusal :=
  match srcRead 12 s with
  | (.pending, _) => .next s
  | (.ioerr e _, s') => .next (endStream .underlyingIOError (some e) s')
  | (.eos [], s') => .next (endStream .endOfStream none s')
  | (.eos (_ :: _), s') => .next (endStream .truncatedInput none s')
  | (.ok b, s') =>
    settle ((do
      memWrite 0 b
      update fun s => { s with fsm := .haveHeader } : Op Unit) s')

/-- State `HaveHeader` (41 R102). -/
def readHeader : Op Unit := do
  let sec ← memRead 0 4
  let typ ← memRead 4 2
  let sub ← memRead 6 2
  let len ← memRead 8 4
  update fun s =>
    let t : Half := BitVec.ofNat 16 (be typ)
    let et := isEt s.cfg t
    { s with
      tsSec := some (BitVec.ofNat 32 (be sec))
      typ := some t
      subtyp := some (BitVec.ofNat 16 (be sub))
      len := some (BitVec.ofNat 32 (be len))
      et := some et
      hlen := some (headerLen et)
      fsm := .awaitingBody }

/-- State `HaveHeader` as a step. -/
def haveHeader (s : State) : Host.Outcome State Fault Refusal :=
  settle (readHeader s)

/-- `TS_USEC` and `TS` (41 R103, 10_state R14). In the variant of 30 R62 a frame with `LEN < 4` has no whole microsecond
field; both stay none and the dispatch raises (assumption 12). -/
def readTimestamp : Op Unit := do
  let cut ← readHeaderCut
  if cut then pure ()
  else do
    let cfg ← askCfg id
    let et ← readReq .et State.et
    let sec ← readReq .tsSec State.tsSec
    if et then do
      let u ← memRead 12 4
      let usec : Word := BitVec.ofNat 32 (be u)
      update fun s => { s with tsUsec := some usec, ts := some (timestamp cfg sec usec) }
    else
      update fun s => { s with tsUsec := some 0, ts := some (timestamp cfg sec 0) }

/-- State `AwaitingBody` after its read has succeeded (41 R103). -/
def takeBody (b : Run) : Op Unit := do
  memWrite 12 b
  readTimestamp
  update fun s => { s with fsm := .dispatching }

/-- `need` (41 R103): the bytes the frame still lacks. -/
def readNeed : Op Nat := do
  let cfg ← askCfg id
  let et ← readReq .et State.et
  let len ← readReq .len State.len
  pure (bodyNeed cfg et len)

/-- State `AwaitingBody` (41 R103). A supplier that does not answer leaves the state as it is (70 R218). -/
def awaitBody (s : State) : Host.Outcome State Fault Refusal :=
  outcome (readNeed s) fun need s =>
    match srcRead need s with
    | (.pending, _) => .next s
    | (.ioerr e _, s') => .next (endStream .underlyingIOError (some e) s')
    | (.eos _, s') => .next (endStream .truncatedInput none s')
    | (.ok b, s') => settle (takeBody b s')

/-- What the fetch of state `Dispatching` finds: an instruction; a (type, subtype) of no row (41 R104); for an attribute unit
driven by itself, the end of its window (44 R131). -/
inductive Fetched
  | instr (i : Instr)
  | unsupported
  | windowEnd
  deriving DecidableEq, Repr

/-- The instruction of a frame, from `TYPE` and `SUBTYPE` alone (41 R104, R105), before any byte of the body is looked at
(60 R189). In the variant of 30 R62 a cut header comes first (assumption 12). -/
def fetchFrame : Op Fetched := do
  let cut ← readHeaderCut
  if cut then raise .truncatedInput
  else do
    let cfg ← askCfg id
    let typ ← readReq .typ State.typ
    let sub ← readReq .subtyp State.subtyp
    match decode cfg .frame (toBe 2 typ.toNat ++ toBe 2 sub.toNat) with
    | .ok (i, _) => pure (.instr i)
    | .error _ => pure .unsupported

/-- The instruction of the element whose first byte is `FB[a]`, when `a` is below `l`. -/
def fetchElement (place : Place) (a l : Nat) (cut : Raise) : Op Fetched :=
  if l ≤ a then raise cut
  else do
    let cfg ← askCfg id
    let b ← memRead a 1
    match decode cfg place [BitVec.ofNat 8 (be b)] with
    | .ok (i, _) => pure (.instr i)
    | .error _ => raise cut

/-- The element at the main cursor, or `TruncatedInput` at `LIM` (40 R91). -/
def fetchAtCursor (place : Place) : Op Fetched := do
  let c ← readReq .cur State.cur
  let l ← readReq .lim State.lim
  fetchElement place c l .truncatedInput

/-- The attribute at the iterator's cursor (44 R131): at the end of the window the sequence is over; with fewer than 3 bytes
left the header is cut. -/
def fetchAttr : Op Fetched := do
  let c ← readReq .atCur State.atCur
  let l ← readReq .atLim State.atLim
  if l - c = 0 then pure .windowEnd
  else if l - c < 3 then raise .malformedAttribute
  else fetchElement .attr c l .malformedAttribute

/-- The fetch of state `Dispatching`: a frame's instruction, or one element's for a unit driven by itself (assumption 7). -/
def fetch : Op Fetched := fun s =>
  match s.focus with
  | .frame => fetchFrame s
  | .peer => fetchAtCursor .peer s
  | .attr => fetchAttr s
  | .nlri => fetchAtCursor .nlri s

end Sys2Proof.Machine
end

