-- ==== Sys2Proof/Machine/Step.lean ====
section
/-! DEFINITION. One step of the block: the caller's act, then the state of the stream reader (41_frame_parser R100 to R104,
R106). A `NEXT` is at most five steps (assumption 6). -/

namespace Sys2Proof.Machine

/-- State `Dispatching` (41 R104): fetch, then run; at the end of an attribute window nothing changes. -/
def dispatchStep (s : State) : Host.Outcome State Fault Refusal :=
  outcome (fetch s) fun found s =>
    match found with
    | .instr i => exec i s
    | .unsupported => .next (abort .unsupportedRecord s)
    | .windowEnd => .next s

/-- The block's step inside a `NEXT` (41 R106). -/
def blockStep (s : State) : Host.Outcome State Fault Refusal :=
  match s.fsm with
  | .awaitingHeader => awaitHeader s
  | .haveHeader => haveHeader s
  | .awaitingBody => awaitBody s
  | .dispatching => dispatchStep s
  | .done => .next (replay s)

/-- One step. -/
def step (s : State) : Host.Outcome State Fault Refusal :=
  match hearCaller s with
  | .settled o => o
  | .run s' => blockStep s'

/-- `s` with one table word placed where `step` fetches its next instruction. -/
def State.withFetchWord (s : State) (nbits w : Nat) : State :=
  placeWord s nbits w

end Sys2Proof.Machine
end

