-- ==== Sys2Proof/Machine/Layout.lean ====
section
/-! DEFINITION. The wire layouts of 30_encoding R66 to R80 as functions from a Record to the bytes of its body, and the
well-formed Records (10_state R22 to R27). The block has no encoder (00_scope R2): the machine does not use this
file; statements say with it which bytes mean which Record. -/

namespace Sys2Proof.Machine

/-- An AS number on the wire (30 R66). -/
def ASNumber.wire : ASNumber → Run
  | .absent => []
  | .as2 v => toBe 2 v.toNat
  | .as4 v => toBe 4 v.toNat

/-- A prefix on the wire (30 R67). -/
def Prefix.wire (p : Prefix) : Run :=
  p.bitlen :: p.addr.take (ceil8 p.bitlen.toNat)

/-- A PeerEntry on the wire (30 R68). -/
def PeerEntry.wire (e : PeerEntry) : Run :=
  [e.flags] ++ toBe 4 e.bgpId.toNat ++ e.addr ++ e.asn.wire

/-- A path attribute on the wire (30 R70). -/
def Attr.wire (cfg : Cfg) (a : Attr) : Run :=
  [a.flags, a.type] ++ toBe (attrHeaderLen (attrIsExt cfg a.flags) - 2) a.length.toNat ++ a.value

/-- An attribute window: its length and its attributes back to back (30 R69, R72). -/
def attrsWire (cfg : Cfg) (as : List Attr) : Run :=
  toBe 2 (as.flatMap (Attr.wire cfg)).length ++ as.flatMap (Attr.wire cfg)

/-- A RIBEntry on the wire (30 R69). -/
def RIBEntry.wire (cfg : Cfg) (e : RIBEntry) : Run :=
  toBe 2 e.peerIndex.toNat ++ toBe 4 e.otime.toNat ++
    (match e.pathId with
      | some p => toBe 4 p.toNat
      | none => []) ++
    attrsWire cfg e.attrs

/-- The first six fields of the BGP4MP bodies (30 R76). -/
def B4Head.wire (h : B4Head) : Run :=
  h.peerAs.wire ++ h.localAs.wire ++ toBe 2 h.ifindex.toNat ++ toBe 2 h.af.toNat ++ h.peerIp ++ h.localIp

/-- The body of a Record (30 R72 to R76, R78 to R80). A Message's body is its head and the bytes handed to
`BgpMsgDecode`, which the Record does not hold: only the head is given here. -/
def Record.wire (cfg : Cfg) : Record → Run
  | .tableDump _ view seq prefixAddr prefixLen status otime peerAddr peerAs as =>
    toBe 2 view.toNat ++ toBe 2 seq.toNat ++ prefixAddr ++ [prefixLen] ++ [status] ++ toBe 4 otime.toNat ++
      peerAddr ++ peerAs.wire ++ attrsWire cfg as
  | .peerIndexTable _ collectorId viewName peers =>
    toBe 4 collectorId.toNat ++ toBe 2 viewName.length ++ viewName ++ toBe 2 peers.length ++
      peers.flatMap PeerEntry.wire
  | .rib _ seq p entries =>
    toBe 4 seq.toNat ++ p.wire ++ toBe 2 entries.length ++ entries.flatMap (RIBEntry.wire cfg)
  | .ribGeneric _ seq afi safi p entries =>
    toBe 4 seq.toNat ++ toBe 2 afi.toNat ++ [safi] ++ p.wire ++ toBe 2 entries.length ++
      entries.flatMap (RIBEntry.wire cfg)
  | .stateChange _ head oldState newState => head.wire ++ toBe 2 oldState.toNat ++ toBe 2 newState.toNat
  | .message _ head _ => head.wire
  | .ospfv2 _ remote loc payload => remote ++ loc ++ payload
  | .ospfv3 _ af remote loc payload => toBe 2 af.toNat ++ remote ++ loc ++ payload
  | .isis _ payload => payload

/-! ## Well-formed values -/

/-- Bit `i` of an address, position 0 being the most significant bit of its first byte (10_state R24). -/
def bitAt (a : Run) (i : Nat) : Bool :=
  (a.getD (i / 8) 0).getLsbD (7 - i % 8)

/-- "every bit of addr at bit position bitlen or later … is zero" (10_state R24). -/
def Prefix.clean (p : Prefix) : Prop :=
  ∀ i < 8 * p.addr.length, p.bitlen.toNat ≤ i → bitAt p.addr i = false

/-- The Prefix invariant at address width `afw` (10_state R24). -/
def Prefix.fits (afw : Nat) (p : Prefix) : Prop :=
  p.addr.length = afw ∧ p.bitlen.toNat ≤ 8 * afw ∧ p.clean

/-- The PeerEntry invariant (10_state R25). -/
def PeerEntry.fits (e : PeerEntry) : Prop :=
  e.addr.length = peerAddrWidth e.flags ∧ e.asn.width = peerAsWidth e.flags

/-- The Attr invariant (10_state R27), and a length its header can carry (30 R70). -/
def Attr.fits (cfg : Cfg) (asw : Nat) (a : Attr) : Prop :=
  a.asw = asw ∧ a.value.length = a.length.toNat ∧ (attrIsExt cfg a.flags = false → a.length.toNat < 256)

/-- Attributes whose window a 16-bit length can declare. -/
def attrsFit (cfg : Cfg) (asw : Nat) (as : List Attr) : Prop :=
  (∀ a ∈ as, a.fits cfg asw) ∧ (as.flatMap (Attr.wire cfg)).length < 65536

/-- The RIBEntry invariant (10_state R26). -/
def RIBEntry.fits (cfg : Cfg) (ap : Bool) (e : RIBEntry) : Prop :=
  e.pathId.isSome = ap ∧ attrsFit cfg 4 e.attrs

/-- The widths of the BGP4MP fields (10_state R22, 30 R71). -/
def B4Head.fits (cfg : Cfg) (asw : Nat) (h : B4Head) : Prop :=
  h.peerAs.width = asw ∧ h.localAs.width = asw ∧ afWidth cfg h.af = some h.peerIp.length ∧
    h.localIp.length = h.peerIp.length

/-- A counted list that a 16-bit count can declare, each element well formed. -/
def listFits {α : Type} (p : α → Prop) (l : List α) : Prop :=
  l.length < 65536 ∧ ∀ x ∈ l, p x

/-- The Record is well formed (10_state R22 to R27) and one that class `c` delivers under the header `hdr`. -/
def Record.fits (cfg : Cfg) (c : RecordClass) (hdr : FrameHdr) : Record → Prop
  | .tableDump h _ _ prefixAddr _ _ _ peerAddr peerAs as =>
    h = hdr ∧ (c = .tdV4 ∨ c = .tdV6) ∧ classAfw c = some prefixAddr.length ∧ peerAddr.length = prefixAddr.length ∧
      peerAs.width = 2 ∧ attrsFit cfg 2 as
  | .peerIndexTable h _ viewName peers =>
    h = hdr ∧ c = .td2Pit ∧ viewName.length < 65536 ∧ listFits PeerEntry.fits peers
  | .rib h _ p entries =>
    h = hdr ∧
      (c = .td2RibV4u ∨ c = .td2RibV4m ∨ c = .td2RibV6u ∨ c = .td2RibV6m ∨ c = .td2RibV4uAp ∨ c = .td2RibV4mAp ∨
        c = .td2RibV6uAp ∨ c = .td2RibV6mAp) ∧
      classAfw c = some p.addr.length ∧ p.fits p.addr.length ∧ listFits (RIBEntry.fits cfg (classAp c)) entries
  | .ribGeneric h _ afi _ p entries =>
    h = hdr ∧ (c = .td2Ribg ∨ c = .td2RibgAp) ∧ afWidth cfg afi = some p.addr.length ∧ p.fits p.addr.length ∧
      listFits (RIBEntry.fits cfg (classAp c)) entries
  | .stateChange h head _ _ =>
    h = hdr ∧ ((c = .b4Sc ∧ head.fits cfg 2) ∨ (c = .b4Sc4 ∧ head.fits cfg 4))
  | .message h head _ =>
    h = hdr ∧ ((c = .b4Msg ∧ head.fits cfg 2) ∨ (c = .b4Msg4 ∧ head.fits cfg 4))
  | .ospfv2 h remote loc _ => h = hdr ∧ c = .ospf2 ∧ remote.length = 4 ∧ loc.length = 4
  | .ospfv3 h af remote loc _ =>
    h = hdr ∧ c = .ospf3 ∧ afWidth cfg af = some remote.length ∧ loc.length = remote.length
  | .isis h _ => h = hdr ∧ c = .isis

end Sys2Proof.Machine
end

