-- ==== Sys2Proof/Machine/Parse.lean ====
section
/-! DEFINITION. "The same operation as a function, for a model that wants no registers" (41_frame_parser R110): `NEXT` on a
byte list and a terminal mark, with every body sequencer as a parser of a byte list. The machine does not use it;
statements compare the two. Written for `LEN_COUNTS_US = false`, as R110 is. -/

namespace Sys2Proof.Machine.Parse

/-- A parser: from the bytes left of a body to a value and the bytes still left, or to the kind raised. -/
abbrev Parser (α : Type) := StateT Run (Except Raise) α

/-- The next `n` bytes, or `TruncatedInput` (40 R90). -/
def take (n : Nat) : Parser Run := fun b =>
  if b.length < n then .error .truncatedInput else .ok (b.take n, b.drop n)

/-- A condition is raised. -/
def fail {α : Type} (k : Raise) : Parser α := fun _ =>
  .error k

/-- All remaining bytes (40 R97). -/
def all : Parser Run := fun b =>
  .ok (b, [])

/-- An 8-bit number (40 R91). -/
def u8 : Parser Byte := do
  let b ← take 1
  pure (BitVec.ofNat 8 (be b))

/-- A 16-bit number (40 R92). -/
def u16 : Parser Half := do
  let b ← take 2
  pure (BitVec.ofNat 16 (be b))

/-- A 32-bit number (40 R93). -/
def u32 : Parser Word := do
  let b ← take 4
  pure (BitVec.ofNat 32 (be b))

/-- An AS number of 2 or 4 bytes (42 R120, R121); the callers give no other width. -/
def asNumber (wide : Bool) : Parser ASNumber :=
  if wide then do
    let v ← u32
    pure (.as4 v)
  else do
    let v ← u16
    pure (.as2 v)

/-- A prefix of address width `afw` (43 R125). -/
def pfx (cfg : Cfg) (afw : Nat) : Parser Prefix := do
  let l ← u8
  if 8 * afw < l.toNat then
    fail .malformedRecord
  else do
    let b ← take (ceil8 l.toNat)
    let a := b ++ zeros (afw - ceil8 l.toNat)
    pure ⟨if cfg.nlriMaskTail then maskTail l.toNat (ceil8 l.toNat) a else a, l⟩

/-- The attributes of a window (44 R131), walked to its end; the first argument bounds the walk. -/
def attrList (cfg : Cfg) (asw : Nat) : Nat → Run → Except Raise (List Attr)
  | 0, _ => .error .malformedAttribute
  | _ + 1, [] => .ok []
  | k + 1, f :: t :: a :: w =>
    if attrIsExt cfg f then
      match w with
      | [] => .error .malformedAttribute
      | b :: w =>
        if w.length < be [a, b] then .error .malformedAttribute
        else
          (attrList cfg asw k (w.drop (be [a, b]))).map fun as =>
            ⟨f, t, BitVec.ofNat 16 (be [a, b]), w.take (be [a, b]), asw⟩ :: as
    else if w.length < a.toNat then .error .malformedAttribute
    else
      (attrList cfg asw k (w.drop a.toNat)).map fun as =>
        ⟨f, t, BitVec.ofNat 16 a.toNat, w.take a.toNat, asw⟩ :: as
  | _ + 1, [_] => .error .malformedAttribute
  | _ + 1, [_, _] => .error .malformedAttribute

/-- An attribute window of `n` bytes (44 R130): the window must fit before any attribute is looked at. -/
def attrs (cfg : Cfg) (asw n : Nat) : Parser (List Attr) := do
  let w ← take n
  match attrList cfg asw (n + 1) w with
  | .ok as => pure as
  | .error k => fail k

/-- Exactly `n` elements (45 R147). -/
def repeated {α : Type} : Nat → Parser α → Parser (List α)
  | 0, _ => pure []
  | n + 1, p => do
    let a ← p
    let as ← repeated n p
    pure (a :: as)

/-- A PeerEntry (30 R68). -/
def peer : Parser PeerEntry := do
  let flags ← u8
  let bgpId ← u32
  let a ← take (peerAddrWidth flags)
  let n ← asNumber (flags.getLsbD 1)
  pure ⟨flags, bgpId, a, n⟩

/-- A RIBEntry (30 R69). -/
def ribEntry (cfg : Cfg) (ap : Bool) : Parser RIBEntry := do
  let peerIndex ← u16
  let otime ← u32
  let pid ← if ap then (do let p ← u32; pure (some p)) else pure none
  let alen ← u16
  let as ← attrs cfg 4 alen.toNat
  pure ⟨peerIndex, otime, pid, as⟩

/-- Body of TableDump (30 R72). -/
def tableDump (cfg : Cfg) (afw : Nat) (hdr : FrameHdr) : Parser Record := do
  let view ← u16
  let seq ← u16
  let prefixAddr ← take afw
  let prefixLen ← u8
  let status ← u8
  let otime ← u32
  let peerAddr ← take afw
  let peerAs ← asNumber false
  let alen ← u16
  let as ← attrs cfg 2 alen.toNat
  pure (.tableDump hdr view seq prefixAddr prefixLen status otime peerAddr peerAs as)

/-- Body of PeerIndexTable (30 R73). -/
def peerIndexTable (hdr : FrameHdr) : Parser Record := do
  let collectorId ← u32
  let vlen ← u16
  let viewName ← take vlen.toNat
  let pcount ← u16
  let peers ← repeated pcount.toNat peer
  pure (.peerIndexTable hdr collectorId viewName peers)

/-- Body of a RIB class (30 R74). -/
def rib (cfg : Cfg) (afw : Nat) (ap : Bool) (hdr : FrameHdr) : Parser Record := do
  let seq ← u32
  let p ← pfx cfg afw
  let ecount ← u16
  let entries ← repeated ecount.toNat (ribEntry cfg ap)
  pure (.rib hdr seq p entries)

/-- Body of a RIBGeneric class (30 R75). -/
def ribGeneric (cfg : Cfg) (ap : Bool) (hdr : FrameHdr) : Parser Record := do
  let seq ← u32
  let afi ← u16
  let safi ← u8
  match afWidth cfg afi with
  | none => fail .malformedRecord
  | some afw => do
    let p ← pfx cfg afw
    let ecount ← u16
    let entries ← repeated ecount.toNat (ribEntry cfg ap)
    pure (.ribGeneric hdr seq afi safi p entries)

/-- The six fields common to the BGP4MP bodies (30 R76). -/
def b4Head (cfg : Cfg) (wide : Bool) : Parser B4Head := do
  let peerAs ← asNumber wide
  let localAs ← asNumber wide
  let ifindex ← u16
  let af ← u16
  match afWidth cfg af with
  | none => fail .malformedRecord
  | some afw => do
    let peerIp ← take afw
    let localIp ← take afw
    pure ⟨peerAs, localAs, ifindex, af, peerIp, localIp⟩

/-- Body of a StateChange class (30 R76). -/
def stateChange (cfg : Cfg) (wide : Bool) (hdr : FrameHdr) : Parser Record := do
  let head ← b4Head cfg wide
  let oldState ← u16
  let newState ← u16
  pure (.stateChange hdr head oldState newState)

/-- Body of a Message class (30 R77, 46 R162). -/
def message (cfg : Cfg) (wide : Bool) (hdr : FrameHdr) : Parser Record := do
  let head ← b4Head cfg wide
  let payload ← all
  match Config.bgpMsgDecode payload (if wide then 4 else 2) head.af with
  | none => fail .malformedRecord
  | some msg => pure (.message hdr head msg)

/-- Body of OSPFv2 (30 R78). -/
def ospfv2 (hdr : FrameHdr) : Parser Record := do
  let remote ← take 4
  let loc ← take 4
  let payload ← all
  pure (.ospfv2 hdr remote loc payload)

/-- Body of OSPFv3 (30 R79). -/
def ospfv3 (cfg : Cfg) (hdr : FrameHdr) : Parser Record := do
  let af ← u16
  match afWidth cfg af with
  | none => fail .malformedRecord
  | some afw => do
    let remote ← take afw
    let loc ← take afw
    let payload ← all
    pure (.ospfv3 hdr af remote loc payload)

/-- Body of IS-IS (30 R80). -/
def isis (hdr : FrameHdr) : Parser Record := do
  let payload ← all
  pure (.isis hdr payload)

/-- The body of each record class, at the widths of its row of 30 R63. -/
def body (cfg : Cfg) (c : RecordClass) (hdr : FrameHdr) : Parser Record :=
  match c with
  | .tdV4 => tableDump cfg 4 hdr
  | .tdV6 => tableDump cfg 16 hdr
  | .td2Pit => peerIndexTable hdr
  | .td2RibV4u | .td2RibV4m => rib cfg 4 false hdr
  | .td2RibV6u | .td2RibV6m => rib cfg 16 false hdr
  | .td2Ribg => ribGeneric cfg false hdr
  | .td2RibV4uAp | .td2RibV4mAp => rib cfg 4 true hdr
  | .td2RibV6uAp | .td2RibV6mAp => rib cfg 16 true hdr
  | .td2RibgAp => ribGeneric cfg true hdr
  | .b4Sc => stateChange cfg false hdr
  | .b4Msg => message cfg false hdr
  | .b4Msg4 => message cfg true hdr
  | .b4Sc4 => stateChange cfg true hdr
  | .ospf2 => ospfv2 hdr
  | .ospf3 => ospfv3 cfg hdr
  | .isis => isis hdr

/-- What a body gives: the kind of the result and the Record, if there is one. -/
def verdict (r : Except Raise (Record × Run)) : ResKind × Option Record :=
  match r with
  | .ok (x, _) => (.record, some x)
  | .error k => (k.kind, none)

/-- The result of one `NEXT` as a function (41 R110): the kind, the Record, the failure code, the stream that is left, and
whether the stream is finished. -/
structure Result where
  kind : ResKind
  record : Option Record
  iocode : Option Nat
  left : Run
  finished : Bool
  deriving DecidableEq, Repr

/-- A stream that ends before `n` bytes: all of it is consumed and it is finished (41 R110, points 1 and 3). `none` where
the supplier never answers. -/
def cutShort (stream : Run) (mark : SrcEnd) (atBoundary : Bool) : Option Result :=
  match mark with
  | .ioerr e => some ⟨.underlyingIOError, none, some e, [], true⟩
  | .eos => some ⟨if atBoundary && stream.isEmpty then .endOfStream else .truncatedInput, none, none, [], true⟩
  | .silent => none

/-- `next(s, m)` of 41 R110. -/
def next (cfg : Cfg) (stream : Run) (mark : SrcEnd) : Option Result :=
  if stream.length < 12 then cutShort stream mark true
  else
    let sec : Word := BitVec.ofNat 32 (be (stream.take 4))
    let typ : Half := BitVec.ofNat 16 (be ((stream.drop 4).take 2))
    let sub : Half := BitVec.ofNat 16 (be ((stream.drop 6).take 2))
    let len := be ((stream.drop 8).take 4)
    let et := cfg.etTypes.contains typ
    let hl := if et then 16 else 12
    if stream.length < hl + len then cutShort stream mark false
    else
      let frame := stream.take (hl + len)
      let usec : Word := if et then BitVec.ofNat 32 (be ((frame.drop 12).take 4)) else 0
      let hdr : FrameHdr := ⟨timestamp cfg sec usec, typ, sub⟩
      let v : ResKind × Option Record := match dispatchClass cfg typ sub with
        | none => (.unsupportedRecord, none)
        | some c => verdict (body cfg c hdr (frame.drop hl))
      some ⟨v.1, v.2, none, stream.drop (hl + len), false⟩

end Sys2Proof.Machine.Parse
end

