-- ==== Sys2Proof/Safety.lean ====
section
/-! DEFINITION. The terms that statements use: one whole `NEXT`, a frame ready for dispatch, an element ready for a unit, the
invariant of the block, and a safe step. -/

namespace Sys2Proof.Machine

/-! ## One whole NEXT -/

/-- Steps until the block is idle again, at most the number given. -/
def stepsUntilIdle : Nat → State → Host.Outcome State Fault Refusal
  | 0, s => .next s
  | k + 1, s =>
    match step s with
    | .next s' => if s'.busy then stepsUntilIdle k s' else .next s'
    | .fault f => .fault f
    | .refused x => .refused x

/-- One `NEXT`, from its acceptance to the delivery of its result: at most five steps (assumption 6). -/
def runNext (s : State) : Host.Outcome State Fault Refusal :=
  stepsUntilIdle 5 s

/-- `n` successive `NEXT`s. -/
def runNexts : Nat → State → Host.Outcome State Fault Refusal
  | 0, s => .next s
  | n + 1, s =>
    match runNext s with
    | .next s' => runNexts n s'
    | .fault f => .fault f
    | .refused x => .refused x

/-- The block is idle on a live stream, its caller serialised (60 R204), its buffer large enough (00_scope R4). -/
def Idle (s : State) : Prop :=
  s.busy = false ∧ s.fsm = .awaitingHeader ∧ s.term = .live ∧ s.calls = [] ∧ s.fb = [] ∧ s.focus = .frame ∧
    16 + (2 ^ 32 - 1) ≤ s.cfg.fbCap

/-- A complete frame on the wire (30 R60 to R62): header fields, the microsecond field its type may have, the body. -/
structure WireFrame where
  sec : Word
  typ : Half
  sub : Half
  usec : Word
  body : Run
  deriving DecidableEq, Repr

/-- `LEN` of a frame on the wire. -/
def WireFrame.len (f : WireFrame) : Word :=
  BitVec.ofNat 32 f.body.length

/-- The bytes of a frame (30 R60 to R62): format H16 for an extended-timestamp type, else H12, then the body. -/
def WireFrame.bytes (cfg : Cfg) (f : WireFrame) : Run :=
  (if cfg.etTypes.contains f.typ then encodeHeaderEt f.sec f.typ f.sub f.len f.usec
    else encodeHeader f.sec f.typ f.sub f.len) ++ f.body

/-! ## Frames and elements ready to be decoded -/

/-- A frame is whole in `FB` with its header decoded: what state `Dispatching` starts from (41 R103, R104). `body` are the
`LEN` bytes at `HLEN`, which is 12 or 16 by `ET` (10_state R13); in the variant `LEN_COUNTS_US = true` the body of an
extended frame is the last `LEN - 4` bytes (30 R62). -/
def Ready (s : State) (hdr : FrameHdr) (body : Run) : Prop :=
  s.ts = some hdr.timestamp ∧ s.typ = some hdr.type ∧ s.subtyp = some hdr.subtype ∧
  ∃ et : Bool, s.et = some et ∧ s.hlen = some (if et then 16 else 12) ∧
    s.len.map BitVec.toNat = some (body.length + if et && s.cfg.lenCountsUs then 4 else 0) ∧
    s.fb.readRun (if et then 16 else 12) body.length = some body

/-- The frame is not too short for its own header: nothing to ask but in the variant of 30 R62. -/
def HeaderWhole (s : State) : Prop :=
  s.cfg.lenCountsUs = true → ∃ et len, s.et = some et ∧ s.len = some len ∧ headerCut s.cfg et len = false

/-- What a class's body makes of a frame (41 R104): its Record is delivered or its error taken. -/
def concluded (r : Except Raise (Record × Run)) (s : State) : State :=
  match r with
  | .ok (x, _) => deliver x s
  | .error k => abort k.kind s

/-- The main cursor stands at `c` with `bytes` before it, inside the limit. -/
def AtCursor (s : State) (c : Nat) (bytes : Run) : Prop :=
  s.cur = some c ∧ s.fb.readRun c bytes.length = some bytes ∧ ∃ l, s.lim = some l ∧ c + bytes.length ≤ l

/-- The main cursor stands at `c` and exactly `bytes` are left before the limit. -/
def LeftAtCursor (s : State) (c : Nat) (bytes : Run) : Prop :=
  s.cur = some c ∧ s.lim = some (c + bytes.length) ∧ s.fb.readRun c bytes.length = some bytes

/-- The iterator's cursor stands at `c` and exactly `bytes` are left of the window, tagged `asw`. -/
def AtWindow (s : State) (c : Nat) (asw : Nat) (bytes : Run) : Prop :=
  s.atCur = some c ∧ s.atLim = some (c + bytes.length) ∧ s.atAsw = some asw ∧
    s.fb.readRun c bytes.length = some bytes

/-! ## The invariant -/

/-- Group H holds nothing (41 R100). -/
def HeaderNone (s : State) : Prop :=
  s.tsSec = none ∧ s.typ = none ∧ s.subtyp = none ∧ s.len = none ∧ s.et = none ∧ s.hlen = none ∧ s.tsUsec = none ∧
    s.ts = none

/-- The six registers of 41 R102 hold a header, `ET` and `HLEN` as `TYPE` says (10_state R13). -/
def HeaderRead (s : State) : Prop :=
  s.tsSec.isSome = true ∧ s.typ.isSome = true ∧ s.subtyp.isSome = true ∧ s.len.isSome = true ∧
    s.et = s.typ.map (isEt s.cfg) ∧ s.hlen = s.et.map headerLen

/-- The frame's microsecond field is cut off (variant of 30 R62). -/
def isCut (s : State) : Bool :=
  (s.et.bind fun e => s.len.map fun n => headerCut s.cfg e n).getD false

/-- The bytes the frame occupies (30 R62). -/
def frameSize (s : State) : Nat :=
  (s.et.bind fun e => s.len.map fun n => frameLen s.cfg e n).getD 0

/-- `FB` holds exactly the addresses below `n` (10_state R15). -/
def Covers (s : State) (n : Nat) : Prop :=
  s.fb.map Prod.fst = List.range n

/-- `CUR`, `LIM` and group X hold nothing: no step stops inside a decode (10_state R16, R18). -/
def NoContext (s : State) : Prop :=
  s.cur = none ∧ s.lim = none ∧ s.cls = none ∧ s.asw = none ∧ s.afw = none ∧ s.ap = none ∧ s.atCur = none ∧
    s.atLim = none ∧ s.atAsw = none ∧ s.focus = .frame ∧ s.built = []

/-- `TERM`, `FSM` and `IOCODE` agree (10_state R12, 41 R100). -/
def TermAgrees (s : State) : Prop :=
  (s.fsm = .done ↔ s.term ≠ .live) ∧ (s.iocode.isSome = true ↔ s.term = .underlyingIOError)

/-- Between two `NEXT`s (41 R100, 10_state R21, 60 R191). -/
def IdleAgrees (s : State) : Prop :=
  (s.fsm = .awaitingHeader ∨ s.fsm = .done) ∧ s.fb = [] ∧ (HeaderNone s ∨ HeaderRead s) ∧
    (s.record.isSome = true ↔ s.res = some .record) ∧ (s.fsm = .done → s.res = some s.term.replay)

/-- Inside a `NEXT`, by the state of the stream reader (41 R101 to R104). -/
def BusyAgrees (s : State) : Prop :=
  s.record = none ∧
  match s.fsm with
  | .awaitingHeader => s.fb = [] ∧ HeaderNone s
  | .haveHeader => Covers s 12 ∧ HeaderNone s
  | .awaitingBody => Covers s 12 ∧ HeaderRead s ∧ s.tsUsec = none ∧ s.ts = none
  | .dispatching =>
    Covers s (frameSize s) ∧ HeaderRead s ∧ s.tsUsec.isSome = !isCut s ∧ s.ts.isSome = !isCut s
  | .done => False

/-- The invariant of the block: what holds between any two of its steps. -/
def BlockInv (s : State) : Prop :=
  16 + (2 ^ 32 - 1) ≤ s.cfg.fbCap ∧ s.fb.wf ∧ NoContext s ∧ TermAgrees s ∧
    (s.busy = false → IdleAgrees s) ∧ (s.busy = true → BusyAgrees s)

/-- The caller's next act breaks the rule of 70 R215: `NEXT`, or a read of a guarded register, at `BUSY = 1`. -/
def CallerErrs (s : State) : Prop :=
  s.busy = true ∧
    (s.calls.head? = some .next ∨ ∃ r, CallerReg.guarded r = true ∧ s.calls.head? = some (.read r))

/-- A safe state: its step does not fault. -/
def Safe (s : State) : Prop :=
  ∀ f, step s ≠ .fault f

end Sys2Proof.Machine
end

