-- ==== Sys2Proof/Certificates/Slice0/Obligations.lean ====
section
/-! DEFINITION. The statements for the provers. -/

open Sys2Proof Sys2Proof.Machine

/-! ## Encoding -/

/-- Every well-formed instruction of every well-formed configuration is read back from its opcode bytes, whatever follows
them. -/
def Obligations.DecodeOfEncode : Prop :=
  ∀ (cfg : Cfg) (i : Instr) (rest : Run), cfg.wf = true → i.wf cfg = true →
    decode cfg i.place (encode cfg i ++ rest) = .ok (i, rest)

/-- What the decoder reads is well formed, of the place asked for, and its opcode bytes are the bytes read: no bit of an
opcode is dropped. Holds for every configuration, also one whose rows meet. -/
def Obligations.EncodeOfDecode : Prop :=
  ∀ (cfg : Cfg) (place : Place) (bytes : Run) (i : Instr) (rest : Run), decode cfg place bytes = .ok (i, rest) →
    i.wf cfg = true ∧ i.place = place ∧ bytes = encode cfg i ++ rest

/-- In a well-formed configuration no two rows of the dispatch map match one (type, subtype) (41 R105). -/
def Obligations.DispatchRowsAreDisjoint : Prop :=
  ∀ cfg : Cfg, cfg.wf = true →
    (frameRows cfg).Pairwise fun r q => ∀ typ sub, ¬ (r.hits typ sub = true ∧ q.hits typ sub = true)

/-- A few words of the opcode table, at the default configuration. The frame words are 30 R63's. That the two single bytes
are read as PeerEntry flags and as attribute flags is the model's choice of place (DESIGN CHOICE, assumption 8): 30 R68 and
R70 give both rows a meaning for either byte. -/
def Obligations.TableWordsDecode : Prop :=
  decodeTableWord 32 0x000C0001 = some .tdV4 ∧ decodeTableWord 32 0x000D0001 = some .td2Pit ∧
  decodeTableWord 32 0x000D0008 = some .td2RibV4uAp ∧ decodeTableWord 32 0x00110005 = some .b4Sc4Et ∧
  decodeTableWord 32 0x000B1234 = some (.ospf2 0x1234) ∧ decodeTableWord 32 0x00210000 = some (.isisEt 0) ∧
  decodeTableWord 8 0x03 = some (.peerV6As4 3) ∧ decodeTableWord 8 0x10 = some (.attrExt 0x10) ∧
  decodeTableWord 32 0x000D0007 = none ∧ decodeTableWord 32 0x00110006 = none

/-- In a well-formed configuration the ADD-PATH bit of the class a TABLE_DUMP_V2 subtype selects is the sub-range's verdict on
the subtype, and the classes of every other type have it clear; the default sub-range 8 to 12 has no holes (30 R64). The model
takes the bit from the column of 30 R63 (DEDUCED, assumption 14), so the sub-range's verdict is a property of configurations
whose ADD-PATH codes fill the sub-range, and that it has no holes is said of the defaults only. -/
def Obligations.AddPathIsTheSubRange : Prop :=
  (∀ (cfg : Cfg) (typ sub : Half) (c : RecordClass), cfg.wf = true → dispatchClass cfg typ sub = some c →
    (typ = cfg.tTableDumpV2 → classAp c = decide (cfg.apLo ≤ sub ∧ sub ≤ cfg.apHi)) ∧
      (typ ≠ cfg.tTableDumpV2 → classAp c = false)) ∧
  ∀ sub : Half, Cfg.default.apLo ≤ sub → sub ≤ Cfg.default.apHi →
    (dispatchClass Cfg.default Cfg.default.tTableDumpV2 sub).isSome = true

/-- The unsupported (type, subtype) pairs at the default codes (30 R65). -/
def Obligations.UnsupportedPairs : Prop :=
  ∀ typ sub : Half, dispatchClass Cfg.default typ sub = none ↔
    typ ∉ [11, 12, 13, 16, 17, 32, 33, 48, 49] ∨ (typ = 12 ∧ sub ∉ [1, 2]) ∨
      (typ = 13 ∧ (sub = 0 ∨ sub = 7 ∨ 12 < sub)) ∨ ((typ = 16 ∨ typ = 17) ∧ sub ∉ [0, 1, 4, 5])

/-! ## A step runs the decoded instruction -/

/-- In state `Dispatching` with a frame's header decoded, the step is the meaning of the instruction that `TYPE ‖ SUBTYPE`
decodes to (41 R104, R105). No other register need have a value, but for `ET` and `LEN` in the variant of 30 R62. -/
def Obligations.StepRunsTheFrame : Prop :=
  ∀ (s : State) (typ sub : Half) (i : Instr) (rest : Run),
    s.calls = [] → s.busy = true → s.fsm = .dispatching → s.focus = .frame →
    s.typ = some typ → s.subtyp = some sub → HeaderWhole s →
    decode s.cfg .frame (toBe 2 typ.toNat ++ toBe 2 sub.toNat ++ rest) = .ok (i, rest) →
    step s = exec i s

/-- With a unit driven by itself (DESIGN CHOICE, assumption 7), the step is the meaning of the element instruction that the byte
at the cursor decodes to: at the main cursor for a PeerEntry and a prefix, at the iterator's cursor for an attribute. Where
there is no such byte: a PeerEntry or a prefix at `LIM` is `TruncatedInput` (40 R91); an attribute at the end of its window
ends the sequence and nothing changes, and one with 1 or 2 bytes left is `MalformedAttribute` (44 R131). -/
def Obligations.StepRunsTheElement : Prop :=
  ∀ (s : State) (a l : Nat), s.calls = [] → s.busy = true → s.fsm = .dispatching →
    ((s.focus = .peer ∨ s.focus = .nlri) → s.cur = some a → s.lim = some l →
      (∀ b i, s.fb.read a = some b → decode s.cfg s.focus [b] = .ok (i, []) → a < l → step s = exec i s) ∧
      (l ≤ a → step s = .next (abort .truncatedInput s))) ∧
    (s.focus = .attr → s.atCur = some a → s.atLim = some l →
      (∀ b i, s.fb.read a = some b → decode s.cfg s.focus [b] = .ok (i, []) → a + 3 ≤ l → step s = exec i s) ∧
      (l ≤ a → step s = .next s) ∧
      (a < l → l < a + 3 → step s = .next (abort .malformedAttribute s)))

/-- A (type, subtype) that is no row of the dispatch map is `UnsupportedRecord`, before any byte of the body is looked at. -/
def Obligations.UnknownPairIsUnsupported : Prop :=
  ∀ (s : State) (typ sub : Half), s.calls = [] → s.busy = true → s.fsm = .dispatching →
    s.focus = .frame → s.typ = some typ → s.subtyp = some sub → HeaderWhole s →
    dispatchClass s.cfg typ sub = none →
    step s = .next (abort .unsupportedRecord s)

/-- The variant `LEN_COUNTS_US = true`: an extended frame with `LEN < 4` has no whole header and is `TruncatedInput`, with the
stream going on (30 R62). That it is so before the (type, subtype) is looked at is the model's choice (assumption 12). -/
def Obligations.CutMicrosecondsAreTruncated : Prop :=
  ∀ (s : State) (len : Word), s.calls = [] → s.busy = true → s.fsm = .dispatching →
    s.focus = .frame → s.cfg.lenCountsUs = true → s.et = some true →
    s.len = some len → len.toNat < 4 →
    step s = .next (abort .truncatedInput s) ∧ (abort .truncatedInput s).fsm = .awaitingHeader

/-! ## Reset and the caller -/

/-- The table of 70 R210: what each register holds after a reset, whatever it held before; `Cfg` stays, and nothing is read
from the supplier. -/
def Obligations.ResetLeavesTheTable : Prop :=
  ∀ s : State, ∀ t ∈ [State.reset, resetBlock s],
    t.fsm = .awaitingHeader ∧ t.term = .live ∧ t.spos = 0 ∧ t.busy = false ∧ t.iocode = none ∧ t.res = none ∧
    HeaderNone t ∧ (∀ a, t.fb.read a = none) ∧ t.cur = none ∧ t.lim = none ∧ t.cls = none ∧ t.asw = none ∧
    t.afw = none ∧ t.ap = none ∧ t.atCur = none ∧ t.atLim = none ∧ t.atAsw = none ∧ t.record = none ∧
    (resetBlock s).cfg = s.cfg ∧ (resetBlock s).src = s.src

/-- A reset abandons whatever is in progress: the state of R210, and the supplier's stream where it stands (70 R211). That a
request the supplier has not answered has taken no byte is the model's choice (DESIGN CHOICE, assumption 26). -/
def Obligations.ResetAbandonsTheNext : Prop :=
  ∀ (s : State) (cs : List CallerAct), s.calls = .reset :: cs →
    ∃ t, step s = .next t ∧ t = resetBlock { s with calls := cs } ∧ t.src = s.src ∧ t.srcEnd = s.srcEnd ∧
      t.res = none ∧ t.busy = false

/-- A `NEXT` while one is in progress, and a read of `RES`, `REC` or group H then, is refused (70 R215); a read of `TERM`,
`IOCODE` or `SPOS` then changes nothing but the caller's acts (assumption 17). -/
def Obligations.BusyCallerIsRefused : Prop :=
  ∀ (s : State) (cs : List CallerAct) (r : CallerReg), s.busy = true →
    (s.calls = .next :: cs → step s = .refused .nextWhileBusy) ∧
    (s.calls = .read r :: cs → r.guarded = true → step s = .refused (.readWhileBusy r)) ∧
    (s.calls = .read r :: cs → r.guarded = false → step s = .next { s with calls := cs })

/-! ## The stream reader, state by state -/

/-- `NEXT` (41 R100): refused at `BUSY = 1`; in `Done` the stream-fatal result again, with nothing read; else accepted, with
`REC` and group H made valueless. The caller issues it as its next act, or past the end of its acts (DESIGN CHOICE,
assumption 4). -/
def Obligations.NextIsAccepted : Prop :=
  ∀ (s : State) (cs : List CallerAct),
    (s.busy = true → acceptNext s = .refused .nextWhileBusy) ∧
    (s.busy = false → (s.calls = .next :: cs ∨ s.calls = [] ∧ cs = []) →
      ∃ t, step s = .next t ∧ t.calls = cs ∧ HeaderNone t ∧ t.record = none ∧ t.src = s.src ∧ t.srcEnd = s.srcEnd ∧
      t.spos = s.spos ∧ t.iocode = s.iocode ∧ t.term = s.term ∧ t.fsm = s.fsm ∧ t.fb = s.fb ∧ t.cfg = s.cfg ∧
      (s.fsm = .done → t.res = some s.term.replay ∧ t.res.map ResKind.code = some s.term.code ∧ t.busy = false) ∧
      (s.fsm ≠ .done → t.res = s.res ∧ t.busy = true))

/-- State `AwaitingHeader` (41 R101), every case: 12 bytes; a supplier failure, whatever came first; EOS with no byte; EOS
after 1 to 11 bytes. -/
def Obligations.HeaderIsAwaited : Prop :=
  ∀ s : State, s.calls = [] → s.busy = true → s.fsm = .awaitingHeader → 12 ≤ s.cfg.fbCap →
    (12 ≤ s.src.length →
      step s = .next { s with
        src := s.src.drop 12, spos := s.spos + 12, fb := s.fb.write 0 (s.src.take 12), fsm := .haveHeader }) ∧
    (∀ e, s.src.length < 12 → s.srcEnd = .ioerr e → ∃ t, step s = .next t ∧ t.term = .underlyingIOError ∧
      t.iocode = some e ∧ t.fsm = .done ∧ t.res = some .underlyingIOError ∧ t.busy = false ∧ t.src = [] ∧
      t.spos = s.spos + BitVec.ofNat 64 s.src.length) ∧
    (s.src = [] → s.srcEnd = .eos → ∃ t, step s = .next t ∧ t.term = .endOfStream ∧ t.fsm = .done ∧
      t.res = some .endOfStream ∧ t.busy = false ∧ t.spos = s.spos) ∧
    (0 < s.src.length → s.src.length < 12 → s.srcEnd = .eos → ∃ t, step s = .next t ∧ t.term = .truncatedInput ∧
      t.fsm = .done ∧ t.res = some .truncatedInput ∧ t.busy = false ∧ t.src = [] ∧
      t.spos = s.spos + BitVec.ofNat 64 s.src.length)

/-- State `HaveHeader` (41 R102): every bit pattern of the 12 bytes is a legal header, and the six registers hold it. -/
def Obligations.HeaderIsDecoded : Prop :=
  ∀ (s : State) (sec : Word) (typ sub : Half) (len : Word), s.calls = [] → s.busy = true → s.fsm = .haveHeader →
    s.fb.readRun 0 12 = some (encodeHeader sec typ sub len) →
    step s = .next { s with
      tsSec := some sec, typ := some typ, subtyp := some sub, len := some len,
      et := some (s.cfg.etTypes.contains typ), hlen := some (if s.cfg.etTypes.contains typ then 16 else 12),
      fsm := .awaitingBody }

/-- State `AwaitingBody` (41 R103) with its `need` bytes at hand: `LEN`, and 4 more for an extended type unless `LEN` counts them
(30 R62). They join the header in `FB`, and `TS` is the sum of 10_state R14 as a number that does not wrap. In the variant an
extended frame with `LEN < 4` is drained and its microsecond field has no value (DESIGN CHOICE, assumption 12). -/
def Obligations.BodyIsTaken : Prop :=
  ∀ (s : State) (sec : Word) (et : Bool) (len : Word) (b : Run), s.calls = [] → s.busy = true →
    s.fsm = .awaitingBody → 16 + (2 ^ 32 - 1) ≤ s.cfg.fbCap → s.tsSec = some sec →
    s.et = some et → s.len = some len → b.length = (if et && !s.cfg.lenCountsUs then 4 else 0) + len.toNat →
    b = s.src.take b.length →
    ((et = true → s.cfg.lenCountsUs = true → 4 ≤ len.toNat) →
      ∃ usec : Word, usec.toNat = (if et then be (b.take 4) else 0) ∧
        ∃ ts : Dword, ts.toNat = sec.toNat * 1000000 + (if s.cfg.honourUs then usec.toNat else 0) ∧
          step s = .next { s with
            src := s.src.drop b.length, spos := s.spos + BitVec.ofNat 64 b.length, fb := s.fb.write 12 b,
            tsUsec := some usec, ts := some ts, fsm := .dispatching }) ∧
    (et = true → s.cfg.lenCountsUs = true → len.toNat < 4 →
      step s = .next { s with
        src := s.src.drop b.length, spos := s.spos + BitVec.ofNat 64 b.length, fb := s.fb.write 12 b,
        fsm := .dispatching })

/-- State `AwaitingBody` (41 R103) with too few bytes, under either reading of `LEN` (30 R62): the stream ends, the six header
registers stay, `TS_USEC` and `TS` have no value, and nothing else does either (60 R191). -/
def Obligations.CutBodyEndsTheStream : Prop :=
  ∀ (s : State) (et : Bool) (len : Word), s.calls = [] → s.busy = true → s.fsm = .awaitingBody →
    s.et = some et → s.len = some len → s.tsUsec = none → s.ts = none →
    s.src.length < (if et && !s.cfg.lenCountsUs then 4 else 0) + len.toNat → s.srcEnd ≠ .silent →
    ∃ t, step s = .next t ∧ t.fsm = .done ∧ t.busy = false ∧ t.record = none ∧ t.src = [] ∧
      t.spos = s.spos + BitVec.ofNat 64 s.src.length ∧ t.tsSec = s.tsSec ∧ t.typ = s.typ ∧ t.subtyp = s.subtyp ∧
      t.len = s.len ∧ t.et = s.et ∧ t.hlen = s.hlen ∧ t.tsUsec = none ∧ t.ts = none ∧ NoContext t ∧
      (∀ a, t.fb.read a = none) ∧
      (s.srcEnd = .eos → t.term = .truncatedInput ∧ t.res = some .truncatedInput ∧ t.iocode = s.iocode) ∧
      (∀ e, s.srcEnd = .ioerr e → t.term = .underlyingIOError ∧ t.res = some .underlyingIOError ∧ t.iocode = some e)

/-- A supplier that does not answer suspends the `NEXT`: the step changes nothing, in either state that reads (70 R218).
That the supplier's silence is a third mark of its stream, and that it has then given no byte, are the model's choices
(DESIGN CHOICE, assumptions 3 and 26). -/
def Obligations.SilentSupplierSuspends : Prop :=
  ∀ s : State, s.calls = [] → s.busy = true → s.srcEnd = .silent →
    (s.fsm = .awaitingHeader → s.src.length < 12 → step s = .next s) ∧
    (∀ et len, s.fsm = .awaitingBody → s.et = some et → s.len = some len → s.src.length < bodyNeed s.cfg et len →
      step s = .next s)

/-- The complete table of state transitions (41 R106): each row with its condition and the result it names, and no other
change of `FSM` but by a reset. Two things are the model's and not R106's: the clauses for a supplier that never answers
(DESIGN CHOICE, assumptions 3 and 26), and that a transition is one step, an accepted `NEXT` or a caller's act being a step
that keeps `FSM` (DESIGN CHOICE, assumption 6). -/
def Obligations.TransitionsAreTheTable : Prop :=
  State.reset.fsm = .awaitingHeader ∧ (∀ s, (resetBlock s).fsm = .awaitingHeader) ∧
  ∀ s t : State, BlockInv s → step s = .next t →
    (t.fsm = s.fsm ∨ s.calls.head? = some .reset ∨
      (s.fsm, t.fsm) ∈ [(Fsm.awaitingHeader, Fsm.haveHeader), (.awaitingHeader, .done), (.haveHeader, .awaitingBody),
        (.awaitingBody, .dispatching), (.awaitingBody, .done), (.dispatching, .awaitingHeader)]) ∧
    (s.calls = [] →
      (s.busy = false → t.fsm = s.fsm) ∧
      (s.busy = true → s.fsm = .awaitingHeader →
        (12 ≤ s.src.length → t.fsm = .haveHeader) ∧
        (s.src = [] → s.srcEnd = .eos → t.fsm = .done ∧ t.res = some .endOfStream) ∧
        (0 < s.src.length → s.src.length < 12 → s.srcEnd = .eos → t.fsm = .done ∧ t.res = some .truncatedInput) ∧
        (∀ e, s.src.length < 12 → s.srcEnd = .ioerr e → t.fsm = .done ∧ t.res = some .underlyingIOError) ∧
        (s.src.length < 12 → s.srcEnd = .silent → t = s)) ∧
      (s.busy = true → s.fsm = .haveHeader → t.fsm = .awaitingBody) ∧
      (s.busy = true → s.fsm = .awaitingBody → ∀ et len, s.et = some et → s.len = some len →
        (bodyNeed s.cfg et len ≤ s.src.length → t.fsm = .dispatching) ∧
        (s.src.length < bodyNeed s.cfg et len → s.srcEnd = .eos → t.fsm = .done ∧ t.res = some .truncatedInput) ∧
        (∀ e, s.src.length < bodyNeed s.cfg et len → s.srcEnd = .ioerr e →
          t.fsm = .done ∧ t.res = some .underlyingIOError) ∧
        (s.src.length < bodyNeed s.cfg et len → s.srcEnd = .silent → t = s)) ∧
      (s.busy = true → s.fsm = .dispatching →
        t.fsm = .awaitingHeader ∧ ∃ k, t.res = some k ∧ k.perFrame .live = true))

/-! ## The invariant -/

/-- Every step keeps the invariant of the block. -/
def Obligations.StepKeepsInv : Prop :=
  ∀ s t : State, BlockInv s → step s = .next t → BlockInv t

/-- The invariant holds after reset. -/
def Obligations.ResetMeetsInv : Prop :=
  BlockInv State.reset

/-- No step from a state of the invariant faults: no rule reads a register or a byte that holds no value, and no read leaves
the frame (20 R44). -/
def Obligations.InvIsSafe : Prop :=
  ∀ s : State, BlockInv s → Safe s

/-- From a state of the invariant a step is refused exactly when the caller breaks the rule of 70 R215. The caller is the model's
list of acts (DESIGN CHOICE, assumption 4); that a read of `TERM`, `IOCODE` or `SPOS` at `BUSY = 1`, of which R215 says
nothing, is not refused is the model's choice (DESIGN CHOICE, assumption 17). -/
def Obligations.RefusedOnlyForTheCaller : Prop :=
  ∀ s : State, BlockInv s → ((∃ x, step s = .refused x) ↔ CallerErrs s)

/-! ## Whole NEXTs -/

/-- One `NEXT` of the registers is the function `next(s, m)` of 41 R110: the same result, the same Record, the same stream
left, in the reading of `LEN` that R110 is written for. R110's marks are EOS and failure; the clause for a supplier that never
answers, whose `NEXT` is then not over, is the model's (DESIGN CHOICE, assumption 3). -/
def Obligations.NextIsTheFunction : Prop :=
  ∀ s : State, Idle s → s.cfg.lenCountsUs = false → ∃ t, runNext s = .next t ∧
    match Parse.next s.cfg s.src s.srcEnd with
    | some r => t.busy = false ∧ t.res = some r.kind ∧ t.record = r.record ∧ t.src = r.left ∧
        (t.fsm = .done ↔ r.finished = true) ∧ (r.finished = false → t.fsm = .awaitingHeader) ∧
        t.iocode = (r.iocode.orElse fun _ => s.iocode) ∧ t.srcEnd = s.srcEnd
    | none => t.busy = true

/-- Drain and realignment (41 R107): after a per-frame result exactly `HLEN + LEN` bytes have been taken, whatever the result;
after a stream-fatal one, all the supplier had, fewer than 12 or fewer than the frame. In the variant `LEN_COUNTS_US = true`,
for which R107 is not written, an extended frame is `12 + LEN` bytes (30 R62), and one with `LEN < 4` is drained like any other
(DESIGN CHOICE, assumption 12). -/
def Obligations.FrameIsDrained : Prop :=
  ∀ s t : State, Idle s → runNext s = .next t → t.busy = false →
    (t.term = .live →
      ∃ et h n size, t.et = some et ∧ t.hlen = some h ∧ t.len = some n ∧ h = (if et then 16 else 12) ∧
        size = (if et && s.cfg.lenCountsUs then 12 else h) + n.toNat ∧ size ≤ s.src.length ∧
        t.src = s.src.drop size ∧ t.srcEnd = s.srcEnd ∧ t.spos = s.spos + BitVec.ofNat 64 size ∧
        t.fsm = .awaitingHeader ∧ ∃ k, t.res = some k ∧ k.perFrame .live = true) ∧
    (t.term ≠ .live →
      t.src = [] ∧ t.spos = s.spos + BitVec.ofNat 64 s.src.length ∧ t.fsm = .done ∧
        (s.src.length < 12 ∨
          ∃ et h n, t.et = some et ∧ t.hlen = some h ∧ t.len = some n ∧ h = (if et then 16 else 12) ∧
            12 ≤ s.src.length ∧ s.src.length < (if et && s.cfg.lenCountsUs then 12 else h) + n.toNat))

/-- `N` complete frames and EOS give `N` per-frame results, the `i`-th about the `i`-th frame, whose header all of group H holds,
and then `EndOfStream` (41 R108). Each result and Record is the one the frame gives alone on a stream: `N` frames that each
decode give `N` Records, and a rejected frame changes only its own result. -/
def Obligations.FramesGiveResultsInOrder : Prop :=
  ∀ (s : State) (frames : List WireFrame), Idle s → s.cfg.lenCountsUs = false → s.srcEnd = .eos →
    (∀ f ∈ frames, f.body.length < 2 ^ 32) →
    s.src = frames.flatMap (WireFrame.bytes s.cfg) →
    (∀ i f, frames[i]? = some f → ∃ t r, runNexts (i + 1) s = .next t ∧ t.busy = false ∧ t.term = .live ∧
      t.tsSec = some f.sec ∧ t.typ = some f.typ ∧ t.subtyp = some f.sub ∧ t.len = some f.len ∧
      t.et = some (s.cfg.etTypes.contains f.typ) ∧ t.hlen = some (if s.cfg.etTypes.contains f.typ then 16 else 12) ∧
      t.tsUsec = some (if s.cfg.etTypes.contains f.typ then f.usec else 0) ∧
      t.ts.map BitVec.toNat = some (f.sec.toNat * 1000000 +
        if s.cfg.honourUs && s.cfg.etTypes.contains f.typ then f.usec.toNat else 0) ∧
      Parse.next s.cfg (f.bytes s.cfg) .eos = some r ∧ r.kind.perFrame .live = true ∧ t.res = some r.kind ∧
      t.record = r.record) ∧
    ∃ t, runNexts (frames.length + 1) s = .next t ∧ t.busy = false ∧ t.res = some .endOfStream ∧ t.fsm = .done ∧
      t.src = []

/-- A stream that has ended gives its ending result for ever: a cut capture never ends cleanly, nothing is read, and the
failure code stays (41 R100). -/
def Obligations.EndIsReplayed : Prop :=
  ∀ (n : Nat) (s : State), s.busy = false → s.fsm = .done → s.calls = [] →
    ∃ t, runNexts (n + 1) s = .next t ∧ t.res = some s.term.replay ∧ t.fsm = .done ∧ t.term = s.term ∧
      t.iocode = s.iocode ∧ t.src = s.src ∧ t.spos = s.spos ∧ t.record = none ∧ t.busy = false

/-- A `NEXT` delivers its result if the supplier answers (70 R222): within five steps of the model. -/
def Obligations.NextDelivers : Prop :=
  ∀ s : State, BlockInv s → s.busy = false → s.calls = [] → s.srcEnd ≠ .silent →
    ∃ t, runNext s = .next t ∧ t.busy = false ∧ t.res.isSome = true

/-! ## Frame instructions -/

/-- TD.V4 and TD.V6 on every body: the Record of 45 R140, or the error the fields meet first. -/
def Obligations.TableDumpDecodes : Prop :=
  ∀ (s : State) (hdr : FrameHdr) (body : Run), Ready s hdr body →
    exec .tdV4 s = .next (concluded (Parse.tableDump s.cfg 4 hdr body) s) ∧
    exec .tdV6 s = .next (concluded (Parse.tableDump s.cfg 16 hdr body) s)

/-- TD2.PIT on every body (45 R142, R143, R147). -/
def Obligations.PeerIndexTableDecodes : Prop :=
  ∀ (s : State) (hdr : FrameHdr) (body : Run), Ready s hdr body →
    exec .td2Pit s = .next (concluded (Parse.peerIndexTable hdr body) s)

/-- The eight RIB classes on every body (45 R144, R145, R147): address width and path identifier by the class. -/
def Obligations.RibDecodes : Prop :=
  ∀ (s : State) (hdr : FrameHdr) (body : Run), Ready s hdr body →
    exec .td2RibV4u s = .next (concluded (Parse.rib s.cfg 4 false hdr body) s) ∧
    exec .td2RibV4m s = .next (concluded (Parse.rib s.cfg 4 false hdr body) s) ∧
    exec .td2RibV6u s = .next (concluded (Parse.rib s.cfg 16 false hdr body) s) ∧
    exec .td2RibV6m s = .next (concluded (Parse.rib s.cfg 16 false hdr body) s) ∧
    exec .td2RibV4uAp s = .next (concluded (Parse.rib s.cfg 4 true hdr body) s) ∧
    exec .td2RibV4mAp s = .next (concluded (Parse.rib s.cfg 4 true hdr body) s) ∧
    exec .td2RibV6uAp s = .next (concluded (Parse.rib s.cfg 16 true hdr body) s) ∧
    exec .td2RibV6mAp s = .next (concluded (Parse.rib s.cfg 16 true hdr body) s)

/-- TD2.RIBG and TD2.RIBG.AP on every body (45 R146): the address width from `afi`. -/
def Obligations.RibGenericDecodes : Prop :=
  ∀ (s : State) (hdr : FrameHdr) (body : Run), Ready s hdr body →
    exec .td2Ribg s = .next (concluded (Parse.ribGeneric s.cfg false hdr body) s) ∧
    exec .td2RibgAp s = .next (concluded (Parse.ribGeneric s.cfg true hdr body) s)

/-- The four StateChange instructions on every body (46 R160, R161, R164): the AS width by the class alone. -/
def Obligations.StateChangeDecodes : Prop :=
  ∀ (s : State) (hdr : FrameHdr) (body : Run), Ready s hdr body →
    exec .b4Sc s = .next (concluded (Parse.stateChange s.cfg false hdr body) s) ∧
    exec .b4ScEt s = .next (concluded (Parse.stateChange s.cfg false hdr body) s) ∧
    exec .b4Sc4 s = .next (concluded (Parse.stateChange s.cfg true hdr body) s) ∧
    exec .b4Sc4Et s = .next (concluded (Parse.stateChange s.cfg true hdr body) s)

/-- The four Message instructions on every body (46 R160, R162 to R164): whatever `BgpMsgDecode` answers. -/
def Obligations.MessageDecodes : Prop :=
  ∀ (s : State) (hdr : FrameHdr) (body : Run), Ready s hdr body →
    exec .b4Msg s = .next (concluded (Parse.message s.cfg false hdr body) s) ∧
    exec .b4MsgEt s = .next (concluded (Parse.message s.cfg false hdr body) s) ∧
    exec .b4Msg4 s = .next (concluded (Parse.message s.cfg true hdr body) s) ∧
    exec .b4Msg4Et s = .next (concluded (Parse.message s.cfg true hdr body) s)

/-- OSPF2 (47 R170): remote, local, and all the rest as payload; a body under 8 bytes is `TruncatedInput`. The subtype the
instruction carries changes nothing. -/
def Obligations.Ospf2Delivers : Prop :=
  ∀ (s : State) (hdr : FrameHdr) (body : Run) (sub : Half), Ready s hdr body →
    (8 ≤ body.length →
      exec (.ospf2 sub) s =
        .next (deliver (.ospfv2 hdr (body.take 4) ((body.drop 4).take 4) (body.drop 8)) s)) ∧
    (body.length < 8 → exec (.ospf2 sub) s = .next (abort .truncatedInput s))

/-- OSPF3 and OSPF3.ET (47 R171): the selector, two addresses of its width, the payload; an unknown selector is
`MalformedRecord`; a body too short for a field is `TruncatedInput`. -/
def Obligations.Ospf3Delivers : Prop :=
  ∀ (s : State) (hdr : FrameHdr) (body : Run) (sub : Half) (i : Instr), Ready s hdr body →
    i = .ospf3 sub ∨ i = .ospf3Et sub →
    (body.length < 2 → exec i s = .next (abort .truncatedInput s)) ∧
    (2 ≤ body.length → ∀ af : Half, af = BitVec.ofNat 16 (be (body.take 2)) →
      (afWidth s.cfg af = none → exec i s = .next (abort .malformedRecord s)) ∧
      (∀ w, afWidth s.cfg af = some w →
        (body.length < 2 + 2 * w → exec i s = .next (abort .truncatedInput s)) ∧
        (2 + 2 * w ≤ body.length →
          exec i s = .next (deliver
            (.ospfv3 hdr af ((body.drop 2).take w) ((body.drop (2 + w)).take w) (body.drop (2 + 2 * w))) s))))

/-- ISIS and ISIS.ET (47 R172, R173): the whole body, byte for byte; nothing in it can make the frame fail. -/
def Obligations.IsisDelivers : Prop :=
  ∀ (s : State) (hdr : FrameHdr) (body : Run) (sub : Half), Ready s hdr body →
    exec (.isis sub) s = .next (deliver (.isis hdr body) s) ∧
    exec (.isisEt sub) s = .next (deliver (.isis hdr body) s)

/-- What every frame instruction leaves unchanged, whatever its frame and whatever the result: the configuration, the
supplier, the caller, `TERM`, `IOCODE`, `SPOS` and group H. `FB`, the cursor and group X hold nothing afterwards
(60 R191), and a Record stands exactly with the result `Record` (10_state R21). -/
def Obligations.FrameInstructionFrame : Prop :=
  ∀ (i : Instr) (c : RecordClass) (s t : State), i.recordClass = some c → exec i s = .next t →
    t.cfg = s.cfg ∧ t.src = s.src ∧ t.srcEnd = s.srcEnd ∧ t.calls = s.calls ∧ t.term = s.term ∧
    t.iocode = s.iocode ∧ t.spos = s.spos ∧ t.tsSec = s.tsSec ∧ t.typ = s.typ ∧ t.subtyp = s.subtyp ∧
    t.len = s.len ∧ t.et = s.et ∧ t.hlen = s.hlen ∧ t.tsUsec = s.tsUsec ∧ t.ts = s.ts ∧
    t.fsm = .awaitingHeader ∧ t.busy = false ∧ NoContext t ∧ (∀ a, t.fb.read a = none) ∧
    (t.record.isSome = true ↔ t.res = some .record) ∧
    (t.res = some .record ∨ t.res = some .truncatedInput ∨ t.res = some .malformedRecord ∨
      t.res = some .malformedAttribute)

/-- "No shared mutable state crosses calls": two states with the same configuration, header and frame buffer give the same
result and the same Record, whatever else differs (00_scope R3, 10_state R11). -/
def Obligations.ResultDependsOnTheFrameAlone : Prop :=
  ∀ (i : Instr) (c : RecordClass) (s u t : State), i.recordClass = some c →
    s.cfg = u.cfg → s.fb = u.fb → s.ts = u.ts → s.typ = u.typ → s.subtyp = u.subtyp → s.len = u.len → s.et = u.et →
    s.hlen = u.hlen → exec i s = .next t →
    ∃ v, exec i u = .next v ∧ v.res = t.res ∧ v.record = t.record

/-- Layout of TableDump (30 R72): the body that carries a well-formed Record delivers exactly that Record; trailing bytes are
not examined. -/
def Obligations.TableDumpLayout : Prop :=
  ∀ (i : Instr) (c : RecordClass) (s : State) (hdr : FrameHdr) (r : Record) (trail : Run),
    i.recordClass = some c → (c = .tdV4 ∨ c = .tdV6) → r.fits s.cfg c hdr → Ready s hdr (r.wire s.cfg ++ trail) →
    exec i s = .next (deliver r s)

/-- Layout of PeerIndexTable and PeerEntry (30 R68, R73). -/
def Obligations.PeerIndexTableLayout : Prop :=
  ∀ (s : State) (hdr : FrameHdr) (r : Record) (trail : Run), r.fits s.cfg .td2Pit hdr →
    Ready s hdr (r.wire s.cfg ++ trail) → exec .td2Pit s = .next (deliver r s)

/-- Layout of the RIB classes and of RIBEntry (30 R69, R74): a path identifier exactly in the ADD-PATH classes. -/
def Obligations.RibLayout : Prop :=
  ∀ (i : Instr) (c : RecordClass) (s : State) (hdr : FrameHdr) (r : Record) (trail : Run),
    i.recordClass = some c →
    (c = .td2RibV4u ∨ c = .td2RibV4m ∨ c = .td2RibV6u ∨ c = .td2RibV6m ∨ c = .td2RibV4uAp ∨ c = .td2RibV4mAp ∨
      c = .td2RibV6uAp ∨ c = .td2RibV6mAp) →
    r.fits s.cfg c hdr → Ready s hdr (r.wire s.cfg ++ trail) → exec i s = .next (deliver r s)

/-- Layout of the RIBGeneric classes (30 R75). -/
def Obligations.RibGenericLayout : Prop :=
  ∀ (i : Instr) (c : RecordClass) (s : State) (hdr : FrameHdr) (r : Record) (trail : Run),
    i.recordClass = some c → (c = .td2Ribg ∨ c = .td2RibgAp) → r.fits s.cfg c hdr →
    Ready s hdr (r.wire s.cfg ++ trail) → exec i s = .next (deliver r s)

/-- Layout of the StateChange classes (30 R76). -/
def Obligations.StateChangeLayout : Prop :=
  ∀ (i : Instr) (c : RecordClass) (s : State) (hdr : FrameHdr) (r : Record) (trail : Run),
    i.recordClass = some c → (c = .b4Sc ∨ c = .b4Sc4) → r.fits s.cfg c hdr →
    Ready s hdr (r.wire s.cfg ++ trail) → exec i s = .next (deliver r s)

/-- Layout of the Message classes (30 R77): the six fields, and every byte after them to `BgpMsgDecode` with the class's AS
width and the frame's `af`; its `Err` is `MalformedRecord`. -/
def Obligations.MessageLayout : Prop :=
  ∀ (i : Instr) (c : RecordClass) (asw : Nat) (s : State) (hdr : FrameHdr) (head : B4Head) (payload : Run),
    i.recordClass = some c → ((c = .b4Msg ∧ asw = 2) ∨ (c = .b4Msg4 ∧ asw = 4)) → head.fits s.cfg asw →
    Ready s hdr (head.wire ++ payload) →
    exec i s = .next
      (match Config.bgpMsgDecode payload asw head.af with
      | some msg => deliver (.message hdr head msg) s
      | none => abort .malformedRecord s)

/-! ## Element instructions and units -/

/-- The four PeerEntry instructions on a whole entry at the cursor (30 R68, 45 R143): the entry is yielded, the cursor advances
by its 11, 23, 13 or 25 bytes, and nothing else changes. That the unit is a step of its own, whose element joins `built`, is
the model's choice (DESIGN CHOICE, assumption 7). -/
def Obligations.PeerEntryIsTaken : Prop :=
  ∀ (s : State) (c aw sw : Nat) (e : PeerEntry) (i : Instr), AtCursor s c e.wire → e.addr.length = aw →
    e.asn.width = sw →
    (i = .peerV4As2 e.flags ∧ aw = 4 ∧ sw = 2 ∨ i = .peerV6As2 e.flags ∧ aw = 16 ∧ sw = 2 ∨
      i = .peerV4As4 e.flags ∧ aw = 4 ∧ sw = 4 ∨ i = .peerV6As4 e.flags ∧ aw = 16 ∧ sw = 4) →
    exec i s = .next { s with cur := some (c + (5 + aw + sw)), built := s.built ++ [.peer e] }

/-- A PeerEntry cut off by the limit is `TruncatedInput`, at whatever field it is cut (45 R143); the frame ends by the abort of
60 R190. That the unit is a step of its own is the model's choice (DESIGN CHOICE, assumption 7). -/
def Obligations.CutPeerEntryIsTruncated : Prop :=
  ∀ (s : State) (c size : Nat) (left : Run) (f : Byte) (i : Instr), LeftAtCursor s c left → left.length < size →
    (i = .peerV4As2 f ∧ size = 11 ∨ i = .peerV6As2 f ∧ size = 23 ∨ i = .peerV4As4 f ∧ size = 13 ∨
      i = .peerV6As4 f ∧ size = 25) →
    exec i s = .next (abort .truncatedInput s)

/-- ATTR.SHORT and ATTR.EXT on a window that the attribute fits (44 R131): it is yielded with the window's AS-width tag, the
iterator's cursor advances past it, and nothing else changes, the main cursor included. That the unit is a step of its own,
whose element joins `built`, is the model's choice (DESIGN CHOICE, assumption 7). -/
def Obligations.AttributeIsTaken : Prop :=
  ∀ (s : State) (c asw : Nat) (a : Attr) (more : Run) (ext : Bool) (i : Instr),
    (i = .attrShort a.flags ∧ ext = false ∨ i = .attrExt a.flags ∧ ext = true) →
    a.value.length = a.length.toNat → (ext = false → a.length.toNat < 256) → a.asw = asw →
    AtWindow s c asw ([a.flags, a.type] ++ toBe (if ext then 2 else 1) a.length.toNat ++ a.value ++ more) →
    exec i s = .next { s with
      atCur := some (c + ((if ext then 4 else 3) + a.length.toNat)), built := s.built ++ [.attr a] }

/-- ATTR.SHORT and ATTR.EXT on a window that ends inside the header or that the declared length overruns: the frame ends with
`MalformedAttribute` (44 R131, 60 R185), by the abort of 60 R190. That the unit is a step of its own is the model's choice
(DESIGN CHOICE, assumption 7). -/
def Obligations.UnfitAttributeIsMalformed : Prop :=
  ∀ (s : State) (c asw : Nat) (w : Run) (f : Byte), AtWindow s c asw w →
    (w.length < 3 ∨ w.length < 3 + be ((w.drop 2).take 1) →
      exec (.attrShort f) s = .next (abort .malformedAttribute s)) ∧
    (w.length < 4 ∨ w.length < 4 + be ((w.drop 2).take 2) →
      exec (.attrExt f) s = .next (abort .malformedAttribute s))

/-- `ATTRS(n, asw)` on the window that carries a list of well-formed attributes gives the list; the main cursor stands past
the window and the iterator at its end (44 R130). -/
def Obligations.WindowGivesItsAttributes : Prop :=
  ∀ (s : State) (c asw : Nat) (as : List Attr) (more : Run), (∀ a ∈ as, a.fits s.cfg asw) →
    LeftAtCursor s c (as.flatMap (Attr.wire s.cfg) ++ more) →
    ∃ t, attrs (as.flatMap (Attr.wire s.cfg)).length asw s = .ok as t ∧
      t.cur = some (c + (as.flatMap (Attr.wire s.cfg)).length) ∧ t.atCur = t.cur ∧ t.atLim = t.cur ∧
      t.atAsw = some asw ∧ t.fb = s.fb ∧ t.lim = s.lim

/-- A window of `n` bytes yields at most `n div 3` attributes (44 R132), and one that does not fit the body is
`TruncatedInput` before any attribute is looked at (44 R130, 60 R185). -/
def Obligations.WindowIsBounded : Prop :=
  ∀ (s : State) (n asw : Nat),
    (∀ as t, attrs n asw s = .ok as t → as.length ≤ n / 3) ∧
    (∀ c l, s.cur = some c → s.lim = some l → l < c + n → attrs n asw s = .error (.raised .truncatedInput) s)

/-- NLRI at the cursor with a legal length and its bytes there (43 R125): the address is the bytes padded to the width, with
the bits beyond the length cleared under `NLRI_MASK_TAIL` and as read without it (43 R126); the cursor advances by
`1 + ceil8(L)` and nothing else changes. That the unit is a step of its own, whose element joins `built`, is the model's choice
(DESIGN CHOICE, assumption 7). -/
def Obligations.PrefixIsTaken : Prop :=
  ∀ (s : State) (c afw : Nat) (l : Byte) (tail : Run), s.afw = some afw → l.toNat ≤ 8 * afw →
    tail.length = ceil8 l.toNat → AtCursor s c (l :: tail) →
    (s.cfg.nlriMaskTail = true → ∀ addr : Run, Prefix.fits afw ⟨addr, l⟩ →
      (∀ k < l.toNat, bitAt tail k = bitAt addr k) →
      exec (.nlri l) s = .next { s with
        cur := some (c + (1 + ceil8 l.toNat)), built := s.built ++ [.pfx ⟨addr, l⟩] }) ∧
    (s.cfg.nlriMaskTail = false →
      exec (.nlri l) s = .next { s with
        cur := some (c + (1 + ceil8 l.toNat)),
        built := s.built ++ [.pfx ⟨tail ++ zeros (afw - ceil8 l.toNat), l⟩] })

/-- The exceptions of NLRI in their order (43 R125): with no byte left for the length `TruncatedInput`; with a length above
`8 * afw` `MalformedRecord` before any address byte is read; with too few address bytes `TruncatedInput`. The frame ends by the
abort of 60 R190. That the unit is a step of its own is the model's choice (DESIGN CHOICE, assumption 7). -/
def Obligations.BadPrefixEndsTheFrame : Prop :=
  ∀ (s : State) (c : Nat) (l : Byte),
    (LeftAtCursor s c [] → exec (.nlri l) s = .next (abort .truncatedInput s)) ∧
    ∀ (afw : Nat) (left : Run), s.afw = some afw → LeftAtCursor s c (l :: left) →
      (8 * afw < l.toNat → exec (.nlri l) s = .next (abort .malformedRecord s)) ∧
      (l.toNat ≤ 8 * afw → left.length < ceil8 l.toNat → exec (.nlri l) s = .next (abort .truncatedInput s))

/-- With the tail mask the postcondition of 10_state R24 holds for every input (43 R126), and exactly `1 + ceil8(L)` bytes are
consumed (43 R127). -/
def Obligations.PrefixIsAlwaysClean : Prop :=
  ∀ (s t : State) (afw : Nat) (p : Prefix), s.cfg.nlriMaskTail = true → nlri afw s = .ok p t →
    p.fits afw ∧ t.cur = s.cur.map (· + (1 + ceil8 p.bitlen.toNat)) ∧ t = { s with cur := t.cur }

/-- The integer forms of the cursor (40 R91 to R94): the big-endian number of the bytes at the cursor, which advances by their
count; with fewer bytes left, `TruncatedInput` and nothing changed. -/
def Obligations.CursorReadsBigEndian : Prop :=
  ∀ (s : State) (c l : Nat), s.cur = some c → s.lim = some l →
    (∀ v : Byte, c + 1 ≤ l → s.fb.readRun c 1 = some (toBe 1 v.toNat) → u8 s = .ok v { s with cur := some (c + 1) }) ∧
    (∀ v : Half, c + 2 ≤ l → s.fb.readRun c 2 = some (toBe 2 v.toNat) → u16 s = .ok v { s with cur := some (c + 2) }) ∧
    (∀ v : Word, c + 4 ≤ l → s.fb.readRun c 4 = some (toBe 4 v.toNat) → u32 s = .ok v { s with cur := some (c + 4) }) ∧
    (∀ v : Dword, c + 8 ≤ l → s.fb.readRun c 8 = some (toBe 8 v.toNat) → u64 s = .ok v { s with cur := some (c + 8) }) ∧
    (l < c + 1 → u8 s = .error (.raised .truncatedInput) s) ∧
    (l < c + 2 → u16 s = .error (.raised .truncatedInput) s) ∧
    (l < c + 4 → u32 s = .error (.raised .truncatedInput) s) ∧
    (l < c + 8 → u64 s = .error (.raised .truncatedInput) s)

/-- `AS(w)` (42 R120): the number at the width the caller gives, never by the data; 0 consumes nothing; any other width is
`MalformedRecord` before any read. -/
def Obligations.AsWidthComesFromTheCaller : Prop :=
  ∀ (s : State) (c : Nat),
    (∀ v : Half, AtCursor s c (toBe 2 v.toNat) →
      asNumber 2 s = .ok (.as2 v) { s with cur := some (c + 2) } ∧ (ASNumber.as2 v).value = some (v.setWidth 32)) ∧
    (∀ v : Word, AtCursor s c (toBe 4 v.toNat) →
      asNumber 4 s = .ok (.as4 v) { s with cur := some (c + 4) } ∧ (ASNumber.as4 v).value = some v) ∧
    asNumber 0 s = .ok .absent s ∧
    (∀ w, w ≠ 0 → w ≠ 2 → w ≠ 4 → asNumber w s = .error (.raised .malformedRecord) s) ∧
    (∀ w l, (w = 2 ∨ w = 4) → s.cur = some c → s.lim = some l → l < c + w →
      asNumber w s = .error (.raised .truncatedInput) s)

/-- `REST()` (40 R97) gives every byte left and cannot fail; `BYTES(0)` never fails (40 R95). -/
def Obligations.RestTakesAll : Prop :=
  ∀ (s : State) (c : Nat) (left : Run), LeftAtCursor s c left →
    rest s = .ok left { s with cur := s.lim } ∧ bytes 0 s = .ok [] s

/-! ## The caller's other acts -/

/-- What the caller may do besides `NEXT` and reset (60 R204): read a register at `BUSY = 0`, which is answered and changes
nothing; make no request; stop for good, after which an idle block stays as it is for ever and a `NEXT` in progress goes on.
That these are the acts of a list, one a step, is the model's choice (DESIGN CHOICE, assumptions 4 and 6). -/
def Obligations.CallerIsServed : Prop :=
  ∀ (s : State) (cs : List CallerAct),
    (s.busy = false →
      (∀ r, s.calls = .read r :: cs → readReg r s = .next (viewReg r s) ∧ step s = .next { s with calls := cs }) ∧
      (s.calls = .hold :: cs → step s = .next { s with calls := cs }) ∧
      (s.calls = .stop :: cs → step s = .next s ∧ ∀ n, runNexts n s = .next s)) ∧
    (s.busy = true →
      (s.calls = .hold :: cs → step s = blockStep { s with calls := cs }) ∧
      (s.calls = .stop :: cs → step s = blockStep s))

/-- What a caller's read shows (10_state R20): the codes of `RES` and `TERM` (R12, R19), `IOCODE`, `SPOS`, the eight registers
of group H at their widths (R13) and `REC` (R21); that a register without a value shows that it has none is assumption 2
(DEDUCED). Beside them the codes of `FSM` (R12), which no caller reads, and the class numbers (30 R63). -/
def Obligations.RegistersShowTheirCodes : Prop :=
  (∀ s : State,
    viewReg .res s = (match s.res with
      | none => .none
      | some .record => .code 0
      | some .endOfStream => .code 1
      | some .truncatedInput => .code 2
      | some .unsupportedRecord => .code 3
      | some .malformedRecord => .code 4
      | some .malformedAttribute => .code 5
      | some .underlyingIOError => .code 6) ∧
    viewReg .term s = (match s.term with
      | .live => .code 0
      | .endOfStream => .code 1
      | .truncatedInput => .code 2
      | .underlyingIOError => .code 6) ∧
    viewReg .iocode s = s.iocode.elim .none .iocode ∧
    viewReg .spos s = .bits 64 s.spos.toNat ∧
    viewReg .tsSec s = s.tsSec.elim .none (fun v => .bits 32 v.toNat) ∧
    viewReg .typ s = s.typ.elim .none (fun v => .bits 16 v.toNat) ∧
    viewReg .subtyp s = s.subtyp.elim .none (fun v => .bits 16 v.toNat) ∧
    viewReg .len s = s.len.elim .none (fun v => .bits 32 v.toNat) ∧
    viewReg .et s = s.et.elim .none (fun b => .bits 1 (if b then 1 else 0)) ∧
    viewReg .hlen s = s.hlen.elim .none (fun h => .bits 5 h) ∧
    viewReg .tsUsec s = s.tsUsec.elim .none (fun v => .bits 32 v.toNat) ∧
    viewReg .ts s = s.ts.elim .none (fun v => .bits 64 v.toNat) ∧
    viewReg .record s = s.record.elim .none .record) ∧
  [Fsm.awaitingHeader, .haveHeader, .awaitingBody, .dispatching, .done].map Fsm.code = [0, 1, 2, 3, 4] ∧
  [RecordClass.tdV4, .tdV6, .td2Pit, .td2RibV4u, .td2RibV4m, .td2RibV6u, .td2RibV6m, .td2Ribg, .td2RibV4uAp,
    .td2RibV4mAp, .td2RibV6uAp, .td2RibV6mAp, .td2RibgAp, .b4Sc, .b4Msg, .b4Msg4, .b4Sc4, .ospf2, .ospf3,
    .isis].map classNumber =
    [1, 2, 3, 4, 5, 6, 7, 8, 9, 10, 11, 12, 13, 14, 15, 16, 17, 18, 19, 20]
end

