-- ==== Sys2Proof/Laws/Bits.lean ====
section
/-! SUPPORT. Big-endian values and their bytes (00_scope R7), padding and masks. -/

namespace Sys2Proof.Machine

@[simp] theorem be_nil : be [] = 0 := rfl

@[simp] theorem be_singleton (b : Byte) : be [b] = b.toNat := by
  simp [be]

/-- A fold of a run from any start value. -/
theorem foldl_be (b : Run) (acc : Nat) :
    b.foldl (fun acc x => acc * 256 + x.toNat) acc = acc * 256 ^ b.length + be b := by
  induction b generalizing acc with
  | nil => simp [be]
  | cons x xs ih =>
    simp only [List.foldl_cons, be, List.length_cons]
    rw [ih, ih (0 * 256 + x.toNat), pow_succ]
    ring

/-- The first byte is the most significant (20 R43). -/
theorem be_cons (x : Byte) (b : Run) : be (x :: b) = x.toNat * 256 ^ b.length + be b := by
  rw [be, List.foldl_cons, foldl_be]
  simp

theorem be_append (a b : Run) : be (a ++ b) = be a * 256 ^ b.length + be b := by
  rw [be, List.foldl_append, foldl_be]
  rfl

/-- A run of `n` bytes is a number below `256 ^ n`. -/
theorem be_lt (b : Run) : be b < 256 ^ b.length := by
  induction b with
  | nil => simp
  | cons x xs ih =>
    rw [be_cons, List.length_cons, pow_succ]
    have hx : x.toNat < 256 := x.isLt
    calc x.toNat * 256 ^ xs.length + be xs < x.toNat * 256 ^ xs.length + 256 ^ xs.length := by omega
      _ = (x.toNat + 1) * 256 ^ xs.length := by ring
      _ ≤ 256 * 256 ^ xs.length := Nat.mul_le_mul_right _ (by omega)
      _ = 256 ^ xs.length * 256 := by ring

@[simp] theorem toBe_length (n v : Nat) : (toBe n v).length = n := by
  induction n with
  | zero => rfl
  | succ n ih => simp [toBe, ih]

/-- The bytes of a number have its value, modulo `256 ^ n`. -/
theorem be_toBe (n v : Nat) : be (toBe n v) = v % 256 ^ n := by
  induction n with
  | zero => simp [toBe, Nat.mod_one]
  | succ n ih =>
    rw [toBe, be_cons, ih, toBe_length, BitVec.toNat_ofNat]
    rw [show 256 ^ (n + 1) = 256 ^ n * 256 from pow_succ .., Nat.mod_mul, Nat.add_comm, Nat.mul_comm]

/-- A `BitVec` whose width the bytes have is read back whole. -/
theorem ofNat_be_toBe {w : Nat} (n : Nat) (v : BitVec w) (h : 2 ^ w = 256 ^ n) :
    BitVec.ofNat w (be (toBe n v.toNat)) = v := by
  rw [be_toBe, ← h, Nat.mod_eq_of_lt v.isLt]
  exact BitVec.ofNat_toNat w v |>.trans (BitVec.setWidth_eq v)

@[simp] theorem ofNat_be_toBe_half (v : Half) : BitVec.ofNat 16 (be (toBe 2 v.toNat)) = v :=
  ofNat_be_toBe 2 v rfl

@[simp] theorem ofNat_be_toBe_word (v : Word) : BitVec.ofNat 32 (be (toBe 4 v.toNat)) = v :=
  ofNat_be_toBe 4 v rfl

@[simp] theorem ofNat_be_byte (b : Byte) : BitVec.ofNat 8 (be [b]) = b := by
  simp

@[simp] theorem zeros_length (n : Nat) : (zeros n).length = n := by
  simp [zeros]

@[simp] theorem maskAt_length (i : Nat) (m : Byte) (a : Run) : (maskAt i m a).length = a.length := by
  induction a generalizing i with
  | nil => cases i <;> rfl
  | cons b bs ih => cases i <;> simp [maskAt, ih]

/-- The prefix bytes of a legal length fit the address (43 R127). -/
theorem ceil8_le (bits afw : Nat) (h : bits ≤ 8 * afw) : ceil8 bits ≤ afw := by
  unfold ceil8
  omega

end Sys2Proof.Machine
end

