-- ==== Sys2Proof/Laws/Memory.lean ====
section
/-! SUPPORT. The frame buffer: its canonical form is kept, a run written is the run read, and every other byte stays. -/

namespace Sys2Proof.Machine

@[simp] theorem Memory.read_nil (a : Nat) : Memory.read [] a = none := rfl

theorem Memory.read_cons (c : Host.Cell) (m : Memory) (a : Nat) :
    Memory.read (c :: m) a = if c.1 = a then some c.2 else Memory.read m a := by
  by_cases h : c.1 = a <;> simp [Memory.read, h]

theorem Memory.read_append (m n : Memory) (a : Nat) :
    Memory.read (m ++ n) a = (Memory.read m a).or (Memory.read n a) := by
  induction m with
  | nil => simp
  | cons c m ih =>
    rw [List.cons_append, Memory.read_cons, Memory.read_cons, ih]
    split <;> simp

/-- A filter on addresses reads as the memory where the filter keeps, and as nothing elsewhere. -/
theorem Memory.read_filter (p : Nat → Bool) (m : Memory) (a : Nat) :
    Memory.read (m.filter fun c => p c.1) a = if p a then Memory.read m a else none := by
  induction m with
  | nil => simp
  | cons c m ih =>
    rw [List.filter_cons, Memory.read_cons]
    by_cases hc : c.1 = a
    · subst hc
      by_cases hp : p c.1 <;> simp [hp, Memory.read_cons, ih]
    · by_cases hp : p c.1 <;> simp [hp, hc, Memory.read_cons, ih]

theorem Memory.read_cells (a : Nat) (b : Run) (x : Nat) :
    Memory.read (Memory.cells a b) x = if a ≤ x then b[x - a]? else none := by
  induction b generalizing a with
  | nil => simp [Memory.cells]
  | cons v vs ih =>
    rw [Memory.cells, Memory.read_cons, ih]
    by_cases h : a = x
    · subst h
      simp
    · by_cases hle : a ≤ x
      · have h1 : a + 1 ≤ x := by omega
        have h2 : x - a = (x - (a + 1)) + 1 := by omega
        simp [h, hle, h1, h2]
      · have h1 : ¬ a + 1 ≤ x := by omega
        simp [h, hle, h1]

/-- Reading after a write: inside the run, the run's byte; outside, the byte of before. -/
theorem Memory.read_write (m : Memory) (a : Nat) (b : Run) (x : Nat) :
    Memory.read (m.write a b) x = if a ≤ x ∧ x < a + b.length then b[x - a]? else m.read x := by
  rw [Memory.write, Memory.read_append, Memory.read_append, Memory.read_filter (fun y => decide (y < a)),
    Memory.read_filter (fun y => decide (a + b.length ≤ y)), Memory.read_cells]
  by_cases h1 : x < a
  · have h2 : ¬ a ≤ x := by omega
    have h3 : ¬ a + b.length ≤ x := by omega
    simp [h1, h2, h3]
  · have h2 : a ≤ x := by omega
    by_cases h3 : x < a + b.length
    · have h4 : ¬ a + b.length ≤ x := by omega
      simp [h1, h2, h3, h4]
    · have h4 : a + b.length ≤ x := by omega
      have h5 : b[x - a]? = none := by
        rw [List.getElem?_eq_none_iff]
        omega
      simp [h1, h2, h3, h4, h5]

theorem Memory.cells_fst (a : Nat) (b : Run) : (Memory.cells a b).map Prod.fst = List.range' a b.length := by
  induction b generalizing a with
  | nil => rfl
  | cons v vs ih => simp [Memory.cells, ih, List.range'_succ]

/-- A write keeps the canonical form. -/
theorem Memory.wf_write (m : Memory) (a : Nat) (b : Run) (h : m.wf) : (m.write a b).wf := by
  have hf : ∀ p : Host.Cell → Bool, ((m.filter p).map Prod.fst).Pairwise (· < ·) := fun p =>
    List.Pairwise.sublist (List.Sublist.map _ List.filter_sublist) h
  have hlo : ∀ y ∈ (m.filter fun c => decide (c.1 < a)).map Prod.fst, y < a := by
    simp only [List.mem_map, List.mem_filter, decide_eq_true_eq]
    rintro y ⟨c, ⟨-, hc⟩, rfl⟩
    exact hc
  have hhi : ∀ y ∈ (m.filter fun c => decide (a + b.length ≤ c.1)).map Prod.fst, a + b.length ≤ y := by
    simp only [List.mem_map, List.mem_filter, decide_eq_true_eq]
    rintro y ⟨c, ⟨-, hc⟩, rfl⟩
    exact hc
  have hmid : ∀ y ∈ List.range' a b.length, a ≤ y ∧ y < a + b.length := by
    intro y hy
    rw [List.mem_range'_1] at hy
    exact hy
  simp only [Memory.wf, Memory.write, List.map_append, Memory.cells_fst, List.pairwise_append]
  refine ⟨⟨hf _, List.pairwise_lt_range', ?_⟩, hf _, ?_⟩
  · intro x hx y hy
    have := hlo x hx
    have := (hmid y hy).1
    omega
  · intro x hx y hy
    have h2 := hhi y hy
    rcases List.mem_append.mp hx with hx | hx
    · have := hlo x hx
      omega
    · have := (hmid x hx).2
      omega

/-- The empty memory is canonical: reset's is (70 R210). -/
theorem Memory.wf_nil : Memory.wf [] := List.Pairwise.nil

theorem State.reset_fb_wf : State.reset.fb.wf := Memory.wf_nil

@[simp] theorem Memory.readRun_zero (m : Memory) (a : Nat) : m.readRun a 0 = some [] := rfl

theorem Memory.readRun_succ (m : Memory) (a n : Nat) :
    m.readRun a (n + 1) = (m.read a).bind fun b => (m.readRun (a + 1) n).map fun bs => b :: bs := rfl

/-- A run is read exactly when each of its bytes is. -/
theorem Memory.readRun_eq_some_iff (m : Memory) (a n : Nat) (b : Run) :
    m.readRun a n = some b ↔ b.length = n ∧ ∀ i < n, m.read (a + i) = b[i]? := by
  induction n generalizing a b with
  | zero => cases b <;> simp
  | succ n ih =>
    rw [Memory.readRun_succ]
    constructor
    · intro h
      obtain ⟨v, hv, h⟩ := Option.bind_eq_some_iff.mp h
      obtain ⟨bs, hbs, rfl⟩ := Option.map_eq_some_iff.mp h
      obtain ⟨hl, hr⟩ := (ih _ _).mp hbs
      refine ⟨by simp [hl], fun i hi => ?_⟩
      cases i with
      | zero => simpa using hv
      | succ i =>
        have := hr i (by omega)
        rw [show a + (i + 1) = a + 1 + i by omega, this]
        simp
    · rintro ⟨hl, hr⟩
      cases b with
      | nil => simp at hl
      | cons v vs =>
        have h0 := hr 0 (by omega)
        have hvs : m.readRun (a + 1) n = some vs := (ih _ _).mpr ⟨by simpa using hl, fun i hi => by
          have := hr (i + 1) (by omega)
          rw [show a + 1 + i = a + (i + 1) by omega, this]
          simp⟩
        simp only [Nat.add_zero, List.getElem?_cons_zero] at h0
        simp [h0, hvs]

@[simp] theorem Memory.readRun_length (m : Memory) (a n : Nat) (b : Run) (h : m.readRun a n = some b) :
    b.length = n :=
  ((Memory.readRun_eq_some_iff m a n b).mp h).1

/-- A run of two parts is read part by part. -/
theorem Memory.readRun_add (m : Memory) (a n k : Nat) :
    m.readRun a (n + k) = (m.readRun a n).bind fun b => (m.readRun (a + n) k).map fun bs => b ++ bs := by
  induction n generalizing a with
  | zero => simp
  | succ n ih =>
    rw [show n + 1 + k = (n + k) + 1 by omega, Memory.readRun_succ, Memory.readRun_succ, ih,
      show a + 1 + n = a + (n + 1) by omega]
    cases m.read a <;> simp
    cases m.readRun (a + 1) n <;> simp [Function.comp_def]

/-- The part of a run that was read. -/
theorem Memory.readRun_take_drop (m : Memory) (a n k : Nat) (b : Run) (h : m.readRun a (n + k) = some b) :
    m.readRun a n = some (b.take n) ∧ m.readRun (a + n) k = some (b.drop n) := by
  rw [Memory.readRun_add] at h
  obtain ⟨x, hx, h⟩ := Option.bind_eq_some_iff.mp h
  obtain ⟨y, hy, rfl⟩ := Option.map_eq_some_iff.mp h
  have hl := Memory.readRun_length m a n x hx
  subst hl
  simp [hx, hy]

/-- The run that was written is the run that is read (20 R44). -/
theorem Memory.readRun_write_self (m : Memory) (a : Nat) (b : Run) :
    (m.write a b).readRun a b.length = some b := by
  rw [Memory.readRun_eq_some_iff]
  refine ⟨rfl, fun i hi => ?_⟩
  rw [Memory.read_write, if_pos (by omega), show a + i - a = i by omega]

end Sys2Proof.Machine
end

