-- ==== Sys2Proof/Laws/State.lean ====
section
/-! SUPPORT. The fields of a state after each named update: true by unfolding the update once, so that no later proof unfolds a
record. -/

namespace Sys2Proof.Machine

@[simp] theorem deliver_eq_endFrame (r : Record) (s : State) : deliver r s = endFrame .record (some r) s := rfl

@[simp] theorem abort_eq_endFrame (k : ResKind) (s : State) : abort k s = endFrame k none s := rfl


/-! ### State.leaveFrame -/

@[simp] theorem State.leaveFrame_cfg (s : State) : (s.leaveFrame).cfg = s.cfg := rfl
@[simp] theorem State.leaveFrame_src (s : State) : (s.leaveFrame).src = s.src := rfl
@[simp] theorem State.leaveFrame_srcEnd (s : State) : (s.leaveFrame).srcEnd = s.srcEnd := rfl
@[simp] theorem State.leaveFrame_calls (s : State) : (s.leaveFrame).calls = s.calls := rfl
@[simp] theorem State.leaveFrame_fsm (s : State) : (s.leaveFrame).fsm = s.fsm := rfl
@[simp] theorem State.leaveFrame_term (s : State) : (s.leaveFrame).term = s.term := rfl
@[simp] theorem State.leaveFrame_iocode (s : State) : (s.leaveFrame).iocode = s.iocode := rfl
@[simp] theorem State.leaveFrame_spos (s : State) : (s.leaveFrame).spos = s.spos := rfl
@[simp] theorem State.leaveFrame_busy (s : State) : (s.leaveFrame).busy = s.busy := rfl
@[simp] theorem State.leaveFrame_tsSec (s : State) : (s.leaveFrame).tsSec = s.tsSec := rfl
@[simp] theorem State.leaveFrame_typ (s : State) : (s.leaveFrame).typ = s.typ := rfl
@[simp] theorem State.leaveFrame_subtyp (s : State) : (s.leaveFrame).subtyp = s.subtyp := rfl
@[simp] theorem State.leaveFrame_len (s : State) : (s.leaveFrame).len = s.len := rfl
@[simp] theorem State.leaveFrame_et (s : State) : (s.leaveFrame).et = s.et := rfl
@[simp] theorem State.leaveFrame_hlen (s : State) : (s.leaveFrame).hlen = s.hlen := rfl
@[simp] theorem State.leaveFrame_tsUsec (s : State) : (s.leaveFrame).tsUsec = s.tsUsec := rfl
@[simp] theorem State.leaveFrame_ts (s : State) : (s.leaveFrame).ts = s.ts := rfl
@[simp] theorem State.leaveFrame_fb (s : State) : (s.leaveFrame).fb = [] := rfl
@[simp] theorem State.leaveFrame_cur (s : State) : (s.leaveFrame).cur = none := rfl
@[simp] theorem State.leaveFrame_lim (s : State) : (s.leaveFrame).lim = none := rfl
@[simp] theorem State.leaveFrame_cls (s : State) : (s.leaveFrame).cls = none := rfl
@[simp] theorem State.leaveFrame_asw (s : State) : (s.leaveFrame).asw = none := rfl
@[simp] theorem State.leaveFrame_afw (s : State) : (s.leaveFrame).afw = none := rfl
@[simp] theorem State.leaveFrame_ap (s : State) : (s.leaveFrame).ap = none := rfl
@[simp] theorem State.leaveFrame_atCur (s : State) : (s.leaveFrame).atCur = none := rfl
@[simp] theorem State.leaveFrame_atLim (s : State) : (s.leaveFrame).atLim = none := rfl
@[simp] theorem State.leaveFrame_atAsw (s : State) : (s.leaveFrame).atAsw = none := rfl
@[simp] theorem State.leaveFrame_focus (s : State) : (s.leaveFrame).focus = .frame := rfl
@[simp] theorem State.leaveFrame_built (s : State) : (s.leaveFrame).built = [] := rfl
@[simp] theorem State.leaveFrame_res (s : State) : (s.leaveFrame).res = s.res := rfl
@[simp] theorem State.leaveFrame_record (s : State) : (s.leaveFrame).record = s.record := rfl

/-! ### endFrame -/

@[simp] theorem endFrame_cfg (k : ResKind) (r : Option Record) (s : State) : (endFrame k r s).cfg = s.cfg := rfl
@[simp] theorem endFrame_src (k : ResKind) (r : Option Record) (s : State) : (endFrame k r s).src = s.src := rfl
@[simp] theorem endFrame_srcEnd (k : ResKind) (r : Option Record) (s : State) : (endFrame k r s).srcEnd = s.srcEnd := rfl
@[simp] theorem endFrame_calls (k : ResKind) (r : Option Record) (s : State) : (endFrame k r s).calls = s.calls := rfl
@[simp] theorem endFrame_fsm (k : ResKind) (r : Option Record) (s : State) : (endFrame k r s).fsm = .awaitingHeader := rfl
@[simp] theorem endFrame_term (k : ResKind) (r : Option Record) (s : State) : (endFrame k r s).term = s.term := rfl
@[simp] theorem endFrame_iocode (k : ResKind) (r : Option Record) (s : State) : (endFrame k r s).iocode = s.iocode := rfl
@[simp] theorem endFrame_spos (k : ResKind) (r : Option Record) (s : State) : (endFrame k r s).spos = s.spos := rfl
@[simp] theorem endFrame_busy (k : ResKind) (r : Option Record) (s : State) : (endFrame k r s).busy = false := rfl
@[simp] theorem endFrame_tsSec (k : ResKind) (r : Option Record) (s : State) : (endFrame k r s).tsSec = s.tsSec := rfl
@[simp] theorem endFrame_typ (k : ResKind) (r : Option Record) (s : State) : (endFrame k r s).typ = s.typ := rfl
@[simp] theorem endFrame_subtyp (k : ResKind) (r : Option Record) (s : State) : (endFrame k r s).subtyp = s.subtyp := rfl
@[simp] theorem endFrame_len (k : ResKind) (r : Option Record) (s : State) : (endFrame k r s).len = s.len := rfl
@[simp] theorem endFrame_et (k : ResKind) (r : Option Record) (s : State) : (endFrame k r s).et = s.et := rfl
@[simp] theorem endFrame_hlen (k : ResKind) (r : Option Record) (s : State) : (endFrame k r s).hlen = s.hlen := rfl
@[simp] theorem endFrame_tsUsec (k : ResKind) (r : Option Record) (s : State) : (endFrame k r s).tsUsec = s.tsUsec := rfl
@[simp] theorem endFrame_ts (k : ResKind) (r : Option Record) (s : State) : (endFrame k r s).ts = s.ts := rfl
@[simp] theorem endFrame_fb (k : ResKind) (r : Option Record) (s : State) : (endFrame k r s).fb = [] := rfl
@[simp] theorem endFrame_cur (k : ResKind) (r : Option Record) (s : State) : (endFrame k r s).cur = none := rfl
@[simp] theorem endFrame_lim (k : ResKind) (r : Option Record) (s : State) : (endFrame k r s).lim = none := rfl
@[simp] theorem endFrame_cls (k : ResKind) (r : Option Record) (s : State) : (endFrame k r s).cls = none := rfl
@[simp] theorem endFrame_asw (k : ResKind) (r : Option Record) (s : State) : (endFrame k r s).asw = none := rfl
@[simp] theorem endFrame_afw (k : ResKind) (r : Option Record) (s : State) : (endFrame k r s).afw = none := rfl
@[simp] theorem endFrame_ap (k : ResKind) (r : Option Record) (s : State) : (endFrame k r s).ap = none := rfl
@[simp] theorem endFrame_atCur (k : ResKind) (r : Option Record) (s : State) : (endFrame k r s).atCur = none := rfl
@[simp] theorem endFrame_atLim (k : ResKind) (r : Option Record) (s : State) : (endFrame k r s).atLim = none := rfl
@[simp] theorem endFrame_atAsw (k : ResKind) (r : Option Record) (s : State) : (endFrame k r s).atAsw = none := rfl
@[simp] theorem endFrame_focus (k : ResKind) (r : Option Record) (s : State) : (endFrame k r s).focus = .frame := rfl
@[simp] theorem endFrame_built (k : ResKind) (r : Option Record) (s : State) : (endFrame k r s).built = [] := rfl
@[simp] theorem endFrame_res (k : ResKind) (r : Option Record) (s : State) : (endFrame k r s).res = some k := rfl
@[simp] theorem endFrame_record (k : ResKind) (r : Option Record) (s : State) : (endFrame k r s).record = r := rfl

/-! ### endStream -/

@[simp] theorem endStream_cfg (t : Term) (code : Option Nat) (s : State) : (endStream t code s).cfg = s.cfg := rfl
@[simp] theorem endStream_src (t : Term) (code : Option Nat) (s : State) : (endStream t code s).src = s.src := rfl
@[simp] theorem endStream_srcEnd (t : Term) (code : Option Nat) (s : State) : (endStream t code s).srcEnd = s.srcEnd := rfl
@[simp] theorem endStream_calls (t : Term) (code : Option Nat) (s : State) : (endStream t code s).calls = s.calls := rfl
@[simp] theorem endStream_fsm (t : Term) (code : Option Nat) (s : State) : (endStream t code s).fsm = .done := rfl
@[simp] theorem endStream_term (t : Term) (code : Option Nat) (s : State) : (endStream t code s).term = t := rfl
@[simp] theorem endStream_iocode (t : Term) (code : Option Nat) (s : State) : (endStream t code s).iocode = code.orElse fun _ => s.iocode := rfl
@[simp] theorem endStream_spos (t : Term) (code : Option Nat) (s : State) : (endStream t code s).spos = s.spos := rfl
@[simp] theorem endStream_busy (t : Term) (code : Option Nat) (s : State) : (endStream t code s).busy = false := rfl
@[simp] theorem endStream_tsSec (t : Term) (code : Option Nat) (s : State) : (endStream t code s).tsSec = s.tsSec := rfl
@[simp] theorem endStream_typ (t : Term) (code : Option Nat) (s : State) : (endStream t code s).typ = s.typ := rfl
@[simp] theorem endStream_subtyp (t : Term) (code : Option Nat) (s : State) : (endStream t code s).subtyp = s.subtyp := rfl
@[simp] theorem endStream_len (t : Term) (code : Option Nat) (s : State) : (endStream t code s).len = s.len := rfl
@[simp] theorem endStream_et (t : Term) (code : Option Nat) (s : State) : (endStream t code s).et = s.et := rfl
@[simp] theorem endStream_hlen (t : Term) (code : Option Nat) (s : State) : (endStream t code s).hlen = s.hlen := rfl
@[simp] theorem endStream_tsUsec (t : Term) (code : Option Nat) (s : State) : (endStream t code s).tsUsec = s.tsUsec := rfl
@[simp] theorem endStream_ts (t : Term) (code : Option Nat) (s : State) : (endStream t code s).ts = s.ts := rfl
@[simp] theorem endStream_fb (t : Term) (code : Option Nat) (s : State) : (endStream t code s).fb = [] := rfl
@[simp] theorem endStream_cur (t : Term) (code : Option Nat) (s : State) : (endStream t code s).cur = none := rfl
@[simp] theorem endStream_lim (t : Term) (code : Option Nat) (s : State) : (endStream t code s).lim = none := rfl
@[simp] theorem endStream_cls (t : Term) (code : Option Nat) (s : State) : (endStream t code s).cls = none := rfl
@[simp] theorem endStream_asw (t : Term) (code : Option Nat) (s : State) : (endStream t code s).asw = none := rfl
@[simp] theorem endStream_afw (t : Term) (code : Option Nat) (s : State) : (endStream t code s).afw = none := rfl
@[simp] theorem endStream_ap (t : Term) (code : Option Nat) (s : State) : (endStream t code s).ap = none := rfl
@[simp] theorem endStream_atCur (t : Term) (code : Option Nat) (s : State) : (endStream t code s).atCur = none := rfl
@[simp] theorem endStream_atLim (t : Term) (code : Option Nat) (s : State) : (endStream t code s).atLim = none := rfl
@[simp] theorem endStream_atAsw (t : Term) (code : Option Nat) (s : State) : (endStream t code s).atAsw = none := rfl
@[simp] theorem endStream_focus (t : Term) (code : Option Nat) (s : State) : (endStream t code s).focus = .frame := rfl
@[simp] theorem endStream_built (t : Term) (code : Option Nat) (s : State) : (endStream t code s).built = [] := rfl
@[simp] theorem endStream_res (t : Term) (code : Option Nat) (s : State) : (endStream t code s).res = some t.replay := rfl
@[simp] theorem endStream_record (t : Term) (code : Option Nat) (s : State) : (endStream t code s).record = none := rfl

/-! ### replay -/

@[simp] theorem replay_cfg (s : State) : (replay s).cfg = s.cfg := rfl
@[simp] theorem replay_src (s : State) : (replay s).src = s.src := rfl
@[simp] theorem replay_srcEnd (s : State) : (replay s).srcEnd = s.srcEnd := rfl
@[simp] theorem replay_calls (s : State) : (replay s).calls = s.calls := rfl
@[simp] theorem replay_fsm (s : State) : (replay s).fsm = s.fsm := rfl
@[simp] theorem replay_term (s : State) : (replay s).term = s.term := rfl
@[simp] theorem replay_iocode (s : State) : (replay s).iocode = s.iocode := rfl
@[simp] theorem replay_spos (s : State) : (replay s).spos = s.spos := rfl
@[simp] theorem replay_busy (s : State) : (replay s).busy = false := rfl
@[simp] theorem replay_tsSec (s : State) : (replay s).tsSec = s.tsSec := rfl
@[simp] theorem replay_typ (s : State) : (replay s).typ = s.typ := rfl
@[simp] theorem replay_subtyp (s : State) : (replay s).subtyp = s.subtyp := rfl
@[simp] theorem replay_len (s : State) : (replay s).len = s.len := rfl
@[simp] theorem replay_et (s : State) : (replay s).et = s.et := rfl
@[simp] theorem replay_hlen (s : State) : (replay s).hlen = s.hlen := rfl
@[simp] theorem replay_tsUsec (s : State) : (replay s).tsUsec = s.tsUsec := rfl
@[simp] theorem replay_ts (s : State) : (replay s).ts = s.ts := rfl
@[simp] theorem replay_fb (s : State) : (replay s).fb = s.fb := rfl
@[simp] theorem replay_cur (s : State) : (replay s).cur = s.cur := rfl
@[simp] theorem replay_lim (s : State) : (replay s).lim = s.lim := rfl
@[simp] theorem replay_cls (s : State) : (replay s).cls = s.cls := rfl
@[simp] theorem replay_asw (s : State) : (replay s).asw = s.asw := rfl
@[simp] theorem replay_afw (s : State) : (replay s).afw = s.afw := rfl
@[simp] theorem replay_ap (s : State) : (replay s).ap = s.ap := rfl
@[simp] theorem replay_atCur (s : State) : (replay s).atCur = s.atCur := rfl
@[simp] theorem replay_atLim (s : State) : (replay s).atLim = s.atLim := rfl
@[simp] theorem replay_atAsw (s : State) : (replay s).atAsw = s.atAsw := rfl
@[simp] theorem replay_focus (s : State) : (replay s).focus = s.focus := rfl
@[simp] theorem replay_built (s : State) : (replay s).built = s.built := rfl
@[simp] theorem replay_res (s : State) : (replay s).res = some s.term.replay := rfl
@[simp] theorem replay_record (s : State) : (replay s).record = s.record := rfl

/-! ### State.forget -/

@[simp] theorem State.forget_cfg (s : State) : (s.forget).cfg = s.cfg := rfl
@[simp] theorem State.forget_src (s : State) : (s.forget).src = s.src := rfl
@[simp] theorem State.forget_srcEnd (s : State) : (s.forget).srcEnd = s.srcEnd := rfl
@[simp] theorem State.forget_calls (s : State) : (s.forget).calls = s.calls := rfl
@[simp] theorem State.forget_fsm (s : State) : (s.forget).fsm = s.fsm := rfl
@[simp] theorem State.forget_term (s : State) : (s.forget).term = s.term := rfl
@[simp] theorem State.forget_iocode (s : State) : (s.forget).iocode = s.iocode := rfl
@[simp] theorem State.forget_spos (s : State) : (s.forget).spos = s.spos := rfl
@[simp] theorem State.forget_busy (s : State) : (s.forget).busy = s.busy := rfl
@[simp] theorem State.forget_tsSec (s : State) : (s.forget).tsSec = none := rfl
@[simp] theorem State.forget_typ (s : State) : (s.forget).typ = none := rfl
@[simp] theorem State.forget_subtyp (s : State) : (s.forget).subtyp = none := rfl
@[simp] theorem State.forget_len (s : State) : (s.forget).len = none := rfl
@[simp] theorem State.forget_et (s : State) : (s.forget).et = none := rfl
@[simp] theorem State.forget_hlen (s : State) : (s.forget).hlen = none := rfl
@[simp] theorem State.forget_tsUsec (s : State) : (s.forget).tsUsec = none := rfl
@[simp] theorem State.forget_ts (s : State) : (s.forget).ts = none := rfl
@[simp] theorem State.forget_fb (s : State) : (s.forget).fb = s.fb := rfl
@[simp] theorem State.forget_cur (s : State) : (s.forget).cur = s.cur := rfl
@[simp] theorem State.forget_lim (s : State) : (s.forget).lim = s.lim := rfl
@[simp] theorem State.forget_cls (s : State) : (s.forget).cls = s.cls := rfl
@[simp] theorem State.forget_asw (s : State) : (s.forget).asw = s.asw := rfl
@[simp] theorem State.forget_afw (s : State) : (s.forget).afw = s.afw := rfl
@[simp] theorem State.forget_ap (s : State) : (s.forget).ap = s.ap := rfl
@[simp] theorem State.forget_atCur (s : State) : (s.forget).atCur = s.atCur := rfl
@[simp] theorem State.forget_atLim (s : State) : (s.forget).atLim = s.atLim := rfl
@[simp] theorem State.forget_atAsw (s : State) : (s.forget).atAsw = s.atAsw := rfl
@[simp] theorem State.forget_focus (s : State) : (s.forget).focus = s.focus := rfl
@[simp] theorem State.forget_built (s : State) : (s.forget).built = s.built := rfl
@[simp] theorem State.forget_res (s : State) : (s.forget).res = s.res := rfl
@[simp] theorem State.forget_record (s : State) : (s.forget).record = none := rfl

/-! ### resetBlock -/

@[simp] theorem resetBlock_cfg (s : State) : (resetBlock s).cfg = s.cfg := rfl
@[simp] theorem resetBlock_src (s : State) : (resetBlock s).src = s.src := rfl
@[simp] theorem resetBlock_srcEnd (s : State) : (resetBlock s).srcEnd = s.srcEnd := rfl
@[simp] theorem resetBlock_calls (s : State) : (resetBlock s).calls = s.calls := rfl
@[simp] theorem resetBlock_fsm (s : State) : (resetBlock s).fsm = .awaitingHeader := rfl
@[simp] theorem resetBlock_term (s : State) : (resetBlock s).term = .live := rfl
@[simp] theorem resetBlock_iocode (s : State) : (resetBlock s).iocode = none := rfl
@[simp] theorem resetBlock_spos (s : State) : (resetBlock s).spos = 0 := rfl
@[simp] theorem resetBlock_busy (s : State) : (resetBlock s).busy = false := rfl
@[simp] theorem resetBlock_tsSec (s : State) : (resetBlock s).tsSec = none := rfl
@[simp] theorem resetBlock_typ (s : State) : (resetBlock s).typ = none := rfl
@[simp] theorem resetBlock_subtyp (s : State) : (resetBlock s).subtyp = none := rfl
@[simp] theorem resetBlock_len (s : State) : (resetBlock s).len = none := rfl
@[simp] theorem resetBlock_et (s : State) : (resetBlock s).et = none := rfl
@[simp] theorem resetBlock_hlen (s : State) : (resetBlock s).hlen = none := rfl
@[simp] theorem resetBlock_tsUsec (s : State) : (resetBlock s).tsUsec = none := rfl
@[simp] theorem resetBlock_ts (s : State) : (resetBlock s).ts = none := rfl
@[simp] theorem resetBlock_fb (s : State) : (resetBlock s).fb = [] := rfl
@[simp] theorem resetBlock_cur (s : State) : (resetBlock s).cur = none := rfl
@[simp] theorem resetBlock_lim (s : State) : (resetBlock s).lim = none := rfl
@[simp] theorem resetBlock_cls (s : State) : (resetBlock s).cls = none := rfl
@[simp] theorem resetBlock_asw (s : State) : (resetBlock s).asw = none := rfl
@[simp] theorem resetBlock_afw (s : State) : (resetBlock s).afw = none := rfl
@[simp] theorem resetBlock_ap (s : State) : (resetBlock s).ap = none := rfl
@[simp] theorem resetBlock_atCur (s : State) : (resetBlock s).atCur = none := rfl
@[simp] theorem resetBlock_atLim (s : State) : (resetBlock s).atLim = none := rfl
@[simp] theorem resetBlock_atAsw (s : State) : (resetBlock s).atAsw = none := rfl
@[simp] theorem resetBlock_focus (s : State) : (resetBlock s).focus = .frame := rfl
@[simp] theorem resetBlock_built (s : State) : (resetBlock s).built = [] := rfl
@[simp] theorem resetBlock_res (s : State) : (resetBlock s).res = none := rfl
@[simp] theorem resetBlock_record (s : State) : (resetBlock s).record = none := rfl

/-! ### How the updates compose -/

/-- Leaving a frame twice is leaving it once. -/
@[simp] theorem State.leaveFrame_leaveFrame (s : State) : s.leaveFrame.leaveFrame = s.leaveFrame := rfl

/-- The end of a frame drops whatever the decode had written to `FB`, the cursor and group X. -/
theorem endFrame_congr (k : ResKind) (r : Option Record) (s t : State) (h : s.leaveFrame = t.leaveFrame) :
    endFrame k r s = endFrame k r t := by
  simp only [endFrame, h]

end Sys2Proof.Machine
end

