-- ==== Sys2Proof/Laws/Ops.lean ====
section
/-! SUPPORT. One lemma for each shared operation that says once everything it can do. -/

namespace Sys2Proof.Machine

/-! ### Sequencing -/

/-- Two operations in sequence: the second runs in the state the first leaves, and a stop of the first ends both (60
R190). -/
theorem Op.bind_apply {α β : Type} (x : Op α) (f : α → Op β) (s : State) :
    (x >>= f) s = match x s with
      | .ok a s' => f a s'
      | .error e s' => .error e s' := by
  show EStateM.bind x f s = _
  unfold EStateM.bind
  cases x s <;> rfl

theorem Op.bind_ok {α β : Type} {x : Op α} {f : α → Op β} {s s' : State} {a : α} (h : x s = .ok a s') :
    (x >>= f) s = f a s' := by
  rw [Op.bind_apply, h]

theorem Op.bind_error {α β : Type} {x : Op α} {f : α → Op β} {s s' : State} {e : Stop} (h : x s = .error e s') :
    (x >>= f) s = .error e s' := by
  rw [Op.bind_apply, h]

@[simp] theorem Op.pure_apply {α : Type} (a : α) (s : State) : (pure a : Op α) s = .ok a s := rfl

@[simp] theorem raise_apply {α : Type} (k : Raise) (s : State) : (raise k : Op α) s = .error (.raised k) s := rfl

@[simp] theorem update_apply (f : State → State) (s : State) : update f s = .ok () (f s) := rfl

@[simp] theorem askCfg_apply {α : Type} (f : Cfg → α) (s : State) : askCfg f s = .ok (f s.cfg) s := rfl

theorem readReq_some {α : Type} {r : RegName} {get : State → Option α} {s : State} {v : α} (h : get s = some v) :
    readReq r get s = .ok v s := by
  simp [readReq, h]

theorem readReq_none {α : Type} {r : RegName} {get : State → Option α} {s : State} (h : get s = none) :
    readReq r get s = .error (.faulted (.noValue r)) s := by
  simp [readReq, h]

/-- The variant test of 30 R62 where `ET` has a value. -/
theorem readCountsUs_some {s : State} {et : Bool} (h : s.et = some et) :
    readCountsUs s = .ok (countsUs s.cfg et) s := by
  unfold readCountsUs countsUs
  rw [Op.bind_ok (askCfg_apply _ _)]
  cases s.cfg.lenCountsUs
  · rfl
  · simpa using readReq_some h

/-- With the default reading of `LEN` neither `ET` nor `LEN` is read to find the header whole. -/
theorem readHeaderCut_default {s : State} (h : s.cfg.lenCountsUs = false) : readHeaderCut s = .ok false s := by
  unfold readHeaderCut readCountsUs
  rw [Op.bind_ok (a := false) (s' := s) (by rw [Op.bind_ok (askCfg_apply _ _), h]; rfl)]
  rfl

/-- The test for a cut header where `ET` and `LEN` have values. -/
theorem readHeaderCut_some {s : State} {et : Bool} {len : Word} (h : s.et = some et) (hl : s.len = some len) :
    readHeaderCut s = .ok (headerCut s.cfg et len) s := by
  unfold readHeaderCut headerCut
  rw [Op.bind_ok (readCountsUs_some h)]
  cases countsUs s.cfg et
  · rfl
  · simp [Op.bind_ok (readReq_some hl)]

/-! ### The frame buffer -/

theorem memRead_some {a n : Nat} {s : State} {b : Run} (h : s.fb.readRun a n = some b) :
    memRead a n s = .ok b s := by
  simp [memRead, h]

/-- `MemRead` gives a run or faults; it changes nothing (20 R44). -/
theorem memRead_cases (a n : Nat) (s : State) :
    (∃ b, s.fb.readRun a n = some b ∧ memRead a n s = .ok b s) ∨
      (s.fb.readRun a n = none ∧ ∃ f, memRead a n s = .error (.faulted f) s) := by
  unfold memRead
  cases h : s.fb.readRun a n with
  | some b => exact .inl ⟨b, rfl, rfl⟩
  | none => exact .inr ⟨rfl, _, rfl⟩

theorem memWrite_ok {a : Nat} {b : Run} {s : State} (h : a + b.length ≤ s.cfg.fbCap) :
    memWrite a b s = .ok () { s with fb := s.fb.write a b } := by
  simp [memWrite, Nat.not_lt.mpr h]

/-! ### The cursor operations -/

theorem extract_ok {n c l : Nat} {s : State} {b : Run} (hc : s.cur = some c) (hl : s.lim = some l)
    (hn : c + n ≤ l) (hb : s.fb.readRun c n = some b) : extract n s = .ok b { s with cur := some (c + n) } := by
  unfold extract
  rw [Op.bind_ok (readReq_some hc), Op.bind_ok (readReq_some hl), if_neg (by omega), Op.bind_ok (memRead_some hb)]
  rfl

theorem extract_truncated {n c l : Nat} {s : State} (hc : s.cur = some c) (hl : s.lim = some l) (hn : l < c + n) :
    extract n s = .error (.raised .truncatedInput) s := by
  unfold extract
  rw [Op.bind_ok (readReq_some hc), Op.bind_ok (readReq_some hl), if_pos hn]
  rfl

/-- The common law (40 R90), whole: the run and the cursor past it; or `TruncatedInput` and nothing changed; or a fault of the
model where a register or a byte holds no value. -/
theorem extract_cases (n : Nat) (s : State) :
    (∃ c l b, s.cur = some c ∧ s.lim = some l ∧ c + n ≤ l ∧ s.fb.readRun c n = some b ∧
        extract n s = .ok b { s with cur := some (c + n) }) ∨
      (∃ c l, s.cur = some c ∧ s.lim = some l ∧ l < c + n ∧ extract n s = .error (.raised .truncatedInput) s) ∨
      ((s.cur = none ∨ s.lim = none ∨ ∃ c, s.cur = some c ∧ s.fb.readRun c n = none) ∧
        ∃ f, extract n s = .error (.faulted f) s) := by
  rcases Option.eq_none_or_eq_some s.cur with hc | ⟨c, hc⟩
  · exact .inr (.inr ⟨.inl hc, _, Op.bind_error (readReq_none hc)⟩)
  rcases Option.eq_none_or_eq_some s.lim with hl | ⟨l, hl⟩
  · exact .inr (.inr ⟨.inr (.inl hl), _, (Op.bind_ok (readReq_some hc)).trans (Op.bind_error (readReq_none hl))⟩)
  by_cases h : l < c + n
  · exact .inr (.inl ⟨c, l, hc, hl, h, extract_truncated hc hl h⟩)
  · rcases memRead_cases c n s with ⟨b, hb, -⟩ | ⟨hb, f, hm⟩
    · exact .inl ⟨c, l, b, hc, hl, by omega, hb, extract_ok hc hl (by omega) hb⟩
    · refine .inr (.inr ⟨.inr (.inr ⟨c, hc, hb⟩), f, ?_⟩)
      unfold extract
      rw [Op.bind_ok (readReq_some hc), Op.bind_ok (readReq_some hl), if_neg h]
      exact Op.bind_error hm

/-- An integer form returns the number of the run that `extract` gives, and stops where it stops (40 R91 to R94). -/
theorem extract_map_ok {α : Type} {n : Nat} {s s' : State} {b : Run} (g : Run → α) (h : extract n s = .ok b s') :
    (do let b ← extract n; pure (g b) : Op α) s = .ok (g b) s' := by
  rw [Op.bind_ok h]
  rfl

theorem addr_of_legal {w : Nat} (h : w = 4 ∨ w = 16) : addr w = bytes w := by
  simp [addr, h]

@[simp] theorem addr_four : addr 4 = bytes 4 := addr_of_legal (.inl rfl)

@[simp] theorem addr_sixteen : addr 16 = bytes 16 := addr_of_legal (.inr rfl)

/-- `ADDR(w)` at another width is refused (40 R96). -/
theorem addr_refused {w : Nat} (h : w ≠ 4 ∧ w ≠ 16) (s : State) :
    addr w s = .error (.refused (.addrWidth w)) s := by
  simp [addr, h.1, h.2]

theorem rest_eq_bytes {c l : Nat} {s : State} (hc : s.cur = some c) (hl : s.lim = some l) :
    rest s = bytes (l - c) s := by
  unfold rest
  rw [Op.bind_ok (readReq_some hc), Op.bind_ok (readReq_some hl)]

/-- `AS(w)` by its width (42 R120): 2 and 4 read, 0 is absent and reads nothing, any other is `MalformedRecord`. -/
theorem asNumber_cases (w : Nat) :
    (w = 2 ∧ asNumber w = (do let v ← u16; pure (.as2 v))) ∨
      (w = 4 ∧ asNumber w = (do let v ← u32; pure (.as4 v))) ∨
      (w = 0 ∧ asNumber w = pure .absent) ∨
      (w ≠ 0 ∧ w ≠ 2 ∧ w ≠ 4 ∧ asNumber w = raise .malformedRecord) := by
  unfold asNumber
  by_cases h2 : w = 2
  · exact .inl ⟨h2, by rw [if_pos h2]⟩
  · by_cases h4 : w = 4
    · exact .inr (.inl ⟨h4, by rw [if_neg h2, if_pos h4]⟩)
    · by_cases h0 : w = 0
      · exact .inr (.inr (.inl ⟨h0, by rw [if_neg h2, if_neg h4, if_pos h0]⟩))
      · exact .inr (.inr (.inr ⟨h0, h2, h4, by rw [if_neg h2, if_neg h4, if_neg h0]⟩))

theorem selectAf_some {af : Half} {w : Nat} {s : State} (h : afWidth s.cfg af = some w) :
    selectAf af s = .ok () { s with afw := some w } := by
  unfold selectAf
  rw [Op.bind_ok (askCfg_apply _ s), h]
  rfl

theorem selectAf_none {af : Half} {s : State} (h : afWidth s.cfg af = none) :
    selectAf af s = .error (.raised .malformedRecord) s := by
  unfold selectAf
  rw [Op.bind_ok (askCfg_apply _ s), h]
  rfl

/-- The selector chooses 4 or 16 bytes or nothing (30 R71). -/
theorem afWidth_legal {cfg : Cfg} {af : Half} {w : Nat} (h : afWidth cfg af = some w) : w = 4 ∨ w = 16 := by
  unfold afWidth at h
  split at h
  · exact .inl (Option.some.inj h).symm
  · split at h
    · exact .inr (Option.some.inj h).symm
    · exact absurd h (by simp)

/-! ### The supplier -/

/-- `SrcRead(n)`, whole (20 R41). -/
theorem srcRead_cases (n : Nat) (s : State) :
    (n ≤ s.src.length ∧
        srcRead n s = (.ok (s.src.take n), { s with src := s.src.drop n, spos := s.spos + BitVec.ofNat 64 n })) ∨
      (s.src.length < n ∧ s.srcEnd = .eos ∧
        srcRead n s = (.eos s.src, { s with src := [], spos := s.spos + BitVec.ofNat 64 s.src.length })) ∨
      (∃ e, s.src.length < n ∧ s.srcEnd = .ioerr e ∧
        srcRead n s = (.ioerr e s.src, { s with src := [], spos := s.spos + BitVec.ofNat 64 s.src.length })) ∨
      (s.src.length < n ∧ s.srcEnd = .silent ∧ srcRead n s = (.pending, s)) := by
  unfold srcRead
  by_cases h : n ≤ s.src.length
  · exact .inl ⟨h, by rw [if_pos h]⟩
  · rw [if_neg h]
    cases hm : s.srcEnd with
    | eos => exact .inr (.inl ⟨by omega, rfl, rfl⟩)
    | ioerr e => exact .inr (.inr (.inl ⟨e, by omega, rfl, rfl⟩))
    | silent => exact .inr (.inr (.inr ⟨by omega, rfl, rfl⟩))

/-! ### The ends of a NEXT -/

/-- What an operation comes to as a step, when it comes to a next state: its continuation, or an abort (60 R190). -/
theorem outcome_next {α : Type} {r : EStateM.Result Stop State α} {k : α → State → Host.Outcome State Fault Refusal}
    {t : State} (h : outcome r k = .next t) :
    (∃ a s, r = .ok a s ∧ k a s = .next t) ∨ ∃ q s, r = .error (.raised q) s ∧ t = abort q.kind s := by
  unfold outcome at h
  split at h
  · exact .inl ⟨_, _, rfl, h⟩
  · exact .inr ⟨_, _, rfl, by injection h with h; exact h.symm⟩
  · cases h
  · cases h

/-- What a sequencer's result comes to (41 R104): a delivery, an abort, or a stop of the model. -/
theorem finish_next {r : EStateM.Result Stop State Record} {t : State} (h : finish r = .next t) :
    (∃ x s, r = .ok x s ∧ t = deliver x s) ∨ ∃ k s, r = .error (.raised k) s ∧ t = abort k.kind s := by
  obtain ⟨x, s, hr, hk⟩ | h := outcome_next h
  · exact .inl ⟨x, s, hr, by injection hk with hk; exact hk.symm⟩
  · exact .inr h

/-- What a unit by itself comes to: its element joins the list, or the frame is aborted (60 R190). -/
theorem runUnit_next {u : Op Element} {s t : State} (h : runUnit u s = .next t) :
    (∃ e s', u s = .ok e s' ∧ t = { s' with built := s'.built ++ [e] }) ∨
      ∃ k s', u s = .error (.raised k) s' ∧ t = abort k.kind s' := by
  obtain ⟨e, s', hu, hk⟩ | h := outcome_next h
  · exact .inl ⟨e, s', hu, by injection hk with hk; exact hk.symm⟩
  · exact .inr h

theorem runUnit_ok {u : Op Element} {s s' : State} {e : Element} (h : u s = .ok e s') :
    runUnit u s = .next { s' with built := s'.built ++ [e] } := by
  simp [runUnit, outcome, h]

theorem runUnit_raised {u : Op Element} {s s' : State} {k : Raise} (h : u s = .error (.raised k) s') :
    runUnit u s = .next (abort k.kind s') := by
  simp [runUnit, outcome, h]

/-- `NEXT` (41 R100), whole: refused while busy, a replay in `Done`, else accepted. -/
theorem acceptNext_cases (s : State) :
    (s.busy = true ∧ acceptNext s = .refused .nextWhileBusy) ∨
      (s.busy = false ∧ s.fsm = .done ∧ acceptNext s = .next (replay { s.forget with busy := true })) ∨
      (s.busy = false ∧ s.fsm ≠ .done ∧ acceptNext s = .next { s.forget with busy := true }) := by
  unfold acceptNext
  cases hb : s.busy
  · by_cases hf : s.fsm = .done <;> simp [hf]
  · simp

/-- A caller's read answers or is refused; it never changes the state (70 R215). -/
theorem readReg_cases (r : CallerReg) (s : State) :
    (readReg r s = .next (viewReg r s) ∧ (s.busy && r.guarded) = false) ∨
      (readReg r s = .refused (.readWhileBusy r) ∧ (s.busy && r.guarded) = true) := by
  unfold readReg
  cases h : s.busy && r.guarded <;> simp

/-- What the caller's part of a step can do (60 R204): let a busy block run, with at most its own act gone; leave an idle one
as it is, with at most its act gone; issue `NEXT`; reset; read. -/
theorem hearCaller_cases (s : State) :
    (∃ cs, s.busy = true ∧ hearCaller s = .run { s with calls := cs }) ∨
      (∃ cs, s.busy = false ∧ hearCaller s = .settled (.next { s with calls := cs })) ∨
      (∃ cs, (s.calls = .next :: cs ∨ s.calls = [] ∧ cs = [] ∧ s.busy = false) ∧
        hearCaller s = .settled (acceptNext { s with calls := cs })) ∨
      (∃ cs, s.calls = .reset :: cs ∧ hearCaller s = .settled (.next (resetBlock { s with calls := cs }))) ∨
      (∃ r cs, s.calls = .read r :: cs ∧
        (((s.busy && r.guarded) = false ∧ hearCaller s = .settled (.next { s with calls := cs })) ∨
          ((s.busy && r.guarded) = true ∧ hearCaller s = .settled (.refused (.readWhileBusy r))))) := by
  have same : ∀ cs, s.calls = cs → ({ s with calls := cs } : State) = s := fun cs h => by rw [← h]
  unfold hearCaller
  split
  · next h =>
    by_cases hb : s.busy = true
    · exact .inl ⟨[], hb, by rw [same _ h, if_pos hb]⟩
    · exact .inr (.inr (.inl ⟨[], .inr ⟨h, rfl, by simpa using hb⟩, by rw [same _ h, if_neg hb]⟩))
  · next cs h =>
    by_cases hb : s.busy = true
    · exact .inl ⟨cs, hb, if_pos hb⟩
    · exact .inr (.inl ⟨cs, by simpa using hb, if_neg hb⟩)
  · next cs h =>
    by_cases hb : s.busy = true
    · exact .inl ⟨_, hb, by rw [same _ h, if_pos hb]⟩
    · exact .inr (.inl ⟨_, by simpa using hb, by rw [same _ h, if_neg hb]⟩)
  · next cs h => exact .inr (.inr (.inl ⟨cs, .inl h, rfl⟩))
  · next cs h => exact .inr (.inr (.inr (.inl ⟨cs, h, rfl⟩)))
  · next r cs h =>
    refine .inr (.inr (.inr (.inr ⟨r, cs, h, ?_⟩)))
    rcases readReg_cases r s with ⟨hr, hg⟩ | ⟨hr, hg⟩
    · exact .inl ⟨hg, by rw [hr]⟩
    · exact .inr ⟨hg, by rw [hr]⟩

end Sys2Proof.Machine
end

