-- ==== Sys2Proof/Laws/Follow.lean ====
section
/-! SUPPORT. The cursor operations and units of the machine against the parsers of 41 R110: in a state whose cursor has the bytes
`w` before its limit, the operation gives what the parser makes of `w`; and what a frame ready for dispatch gives them. -/

namespace Sys2Proof.Machine

open Parse (Parser)

/-- `w` are the bytes between the cursor and its limit. -/
def Left (s : State) (w : Run) : Prop :=
  ∃ c, LeftAtCursor s c w

/-- Only the cursor and the iterator's registers may differ: what an operation inside a sequencer changes. -/
def Quiet (s t : State) : Prop :=
  t.leaveFrame = s.leaveFrame ∧ t.fb = s.fb ∧ t.asw = s.asw ∧ t.afw = s.afw ∧ t.ap = s.ap

theorem Quiet.refl (s : State) : Quiet s s := ⟨rfl, rfl, rfl, rfl, rfl⟩

theorem Quiet.trans {s t u : State} (h : Quiet s t) (k : Quiet t u) : Quiet s u := by
  obtain ⟨h1, h2, h3, h4, h5⟩ := h
  obtain ⟨k1, k2, k3, k4, k5⟩ := k
  exact ⟨k1.trans h1, k2.trans h2, k3.trans h3, k4.trans h4, k5.trans h5⟩

/-- Equal outside a decode: equal in every register the decode does not own. -/
theorem leaveFrame_proj {s t : State} (h : t.leaveFrame = s.leaveFrame) :
    t.cfg = s.cfg ∧ t.ts = s.ts ∧ t.typ = s.typ ∧ t.subtyp = s.subtyp := by
  have h1 := congrArg State.cfg h
  have h2 := congrArg State.ts h
  have h3 := congrArg State.typ h
  have h4 := congrArg State.subtyp h
  simpa using ⟨h1, h2, h3, h4⟩

theorem Quiet.cfg_eq {s t : State} (h : Quiet s t) : t.cfg = s.cfg := (leaveFrame_proj h.1).1

theorem Parse.bind_apply {α β : Type} (p : Parser α) (g : α → Parser β) (w : Run) :
    (p >>= g) w = match p w with
      | .ok (a, w') => g a w'
      | .error k => .error k := by
  show (StateT.bind p g) w = _
  unfold StateT.bind
  show Except.bind (p w) _ = _
  cases p w <;> rfl

@[simp] theorem Parse.pure_apply {α : Type} (a : α) (w : Run) : (pure a : Parser α) w = .ok (a, w) := rfl

/-- The operation follows the parser: the same value and the same bytes left, or the same kind raised. -/
def Follows {α : Type} (s : State) (w : Run) (x : Op α) (p : Parser α) : Prop :=
  match p w with
  | .ok (a, w') => ∃ t, x s = .ok a t ∧ Left t w' ∧ Quiet s t
  | .error k => ∃ t, x s = .error (.raised k) t ∧ t.leaveFrame = s.leaveFrame

/-- The same for a whole sequencer, of whose last state only what lies outside the decode matters. -/
def Ends {α : Type} (s : State) (w : Run) (x : Op α) (p : Parser α) : Prop :=
  match p w with
  | .ok (a, _) => ∃ t, x s = .ok a t ∧ t.leaveFrame = s.leaveFrame
  | .error k => ∃ t, x s = .error (.raised k) t ∧ t.leaveFrame = s.leaveFrame

theorem Follows.ends {α : Type} {s : State} {w : Run} {x : Op α} {p : Parser α} (h : Follows s w x p) :
    Ends s w x p := by
  unfold Follows at h
  unfold Ends
  cases hp : p w with
  | error k => simpa [hp] using h
  | ok r =>
    simp only [hp] at h
    obtain ⟨t, h1, -, h2⟩ := h
    exact ⟨t, h1, h2.1⟩

theorem Follows.bind {α β : Type} {s : State} {w : Run} {x : Op α} {p : Parser α} {f : α → Op β} {g : α → Parser β}
    (h : Follows s w x p) (k : ∀ a t w', Left t w' → Quiet s t → Follows t w' (f a) (g a)) :
    Follows s w (x >>= f) (p >>= g) := by
  unfold Follows at h ⊢
  rw [Parse.bind_apply]
  cases hp : p w with
  | error e =>
    simp only [hp] at h
    obtain ⟨t, h1, h2⟩ := h
    exact ⟨t, Op.bind_error h1, h2⟩
  | ok r =>
    obtain ⟨a, w'⟩ := r
    simp only [hp] at h
    obtain ⟨t, h1, h2, h3⟩ := h
    have hk := k a t w' h2 h3
    unfold Follows at hk
    rw [Op.bind_ok h1]
    cases hg : g a w' with
    | error e =>
      simp only [hg] at hk ⊢
      obtain ⟨u, k1, k2⟩ := hk
      exact ⟨u, k1, k2.trans h3.1⟩
    | ok q =>
      simp only [hg] at hk ⊢
      obtain ⟨u, k1, k2, k3⟩ := hk
      exact ⟨u, k1, k2, h3.trans k3⟩

theorem Follows.bindEnds {α β : Type} {s : State} {w : Run} {x : Op α} {p : Parser α} {f : α → Op β}
    {g : α → Parser β} (h : Follows s w x p) (k : ∀ a t w', Left t w' → Quiet s t → Ends t w' (f a) (g a)) :
    Ends s w (x >>= f) (p >>= g) := by
  unfold Follows at h
  unfold Ends
  rw [Parse.bind_apply]
  cases hp : p w with
  | error e =>
    simp only [hp] at h
    obtain ⟨t, h1, h2⟩ := h
    exact ⟨t, Op.bind_error h1, h2⟩
  | ok r =>
    obtain ⟨a, w'⟩ := r
    simp only [hp] at h
    obtain ⟨t, h1, h2, h3⟩ := h
    have hk := k a t w' h2 h3
    unfold Ends at hk
    rw [Op.bind_ok h1]
    cases hg : g a w' with
    | error e =>
      simp only [hg] at hk ⊢
      obtain ⟨u, k1, k2⟩ := hk
      exact ⟨u, k1, k2.trans h3.1⟩
    | ok q =>
      simp only [hg] at hk ⊢
      obtain ⟨u, k1, k2⟩ := hk
      exact ⟨u, k1, k2.trans h3.1⟩

theorem follows_pure {α : Type} {s : State} {w : Run} (h : Left s w) (a : α) :
    Follows s w (pure a : Op α) (pure a) :=
  ⟨s, rfl, h, Quiet.refl s⟩

/-- A register read on the way does not disturb the correspondence. -/
theorem follows_readReq {α β : Type} {s : State} {w : Run} {r : RegName} {get : State → Option α} {v : α}
    {f : α → Op β} {p : Parser β} (h : get s = some v) (k : Follows s w (f v) p) :
    Follows s w (readReq r get >>= f) p := by
  unfold Follows at k ⊢
  rw [Op.bind_ok (readReq_some h)]
  exact k

theorem ends_readReq {α β : Type} {s : State} {w : Run} {r : RegName} {get : State → Option α} {v : α}
    {f : α → Op β} {p : Parser β} (h : get s = some v) (k : Ends s w (f v) p) :
    Ends s w (readReq r get >>= f) p := by
  unfold Ends at k ⊢
  rw [Op.bind_ok (readReq_some h)]
  exact k

/-- `BYTES(n)` follows `take n` (40 R95). -/
theorem follows_bytes {s : State} {w : Run} (n : Nat) (h : Left s w) : Follows s w (bytes n) (Parse.take n) := by
  obtain ⟨c, hc, hl, hr⟩ := h
  unfold Follows Parse.take bytes
  by_cases hn : w.length < n
  · rw [if_pos hn]
    exact ⟨s, extract_truncated hc hl (by omega), rfl⟩
  · rw [if_neg hn]
    obtain ⟨k, hk⟩ : ∃ k, w.length = n + k := ⟨w.length - n, by omega⟩
    rw [hk] at hr
    obtain ⟨h1, h2⟩ := Memory.readRun_take_drop _ _ _ _ _ hr
    refine ⟨_, extract_ok hc hl (by omega) h1, ⟨c + n, rfl, ?_, ?_⟩, rfl, rfl, rfl, rfl, rfl⟩
    · simp only [hl, List.length_drop, Option.some.injEq]
      omega
    · simpa [hk] using h2

theorem follows_map {α β : Type} {s : State} {w : Run} {x : Op α} {p : Parser α} (h : Follows s w x p) (g : α → β) :
    Follows s w (do let a ← x; pure (g a)) (do let a ← p; pure (g a)) :=
  h.bind fun _ _ _ hl _ => follows_pure hl _

theorem follows_u8 {s : State} {w : Run} (h : Left s w) : Follows s w u8 Parse.u8 :=
  follows_map (follows_bytes 1 h) _

theorem follows_u16 {s : State} {w : Run} (h : Left s w) : Follows s w u16 Parse.u16 :=
  follows_map (follows_bytes 2 h) _

theorem follows_u32 {s : State} {w : Run} (h : Left s w) : Follows s w u32 Parse.u32 :=
  follows_map (follows_bytes 4 h) _

theorem follows_addr {s : State} {w : Run} {n : Nat} (hn : n = 4 ∨ n = 16) (h : Left s w) :
    Follows s w (addr n) (Parse.take n) := by
  rw [addr_of_legal hn]
  exact follows_bytes n h

theorem follows_rest {s : State} {w : Run} (h : Left s w) : Follows s w rest Parse.all := by
  have hb := follows_bytes w.length h
  obtain ⟨c, hc, hl, -⟩ := h
  unfold Follows Parse.take at hb
  unfold Follows Parse.all
  rw [rest_eq_bytes hc hl, Nat.add_sub_cancel_left]
  simpa using hb

theorem follows_as2 {s : State} {w : Run} (h : Left s w) : Follows s w (asNumber 2) (Parse.asNumber false) :=
  follows_map (follows_u16 h) _

theorem follows_as4 {s : State} {w : Run} (h : Left s w) : Follows s w (asNumber 4) (Parse.asNumber true) :=
  follows_map (follows_u32 h) _

theorem follows_asNumber {s : State} {w : Run} (wide : Bool) (h : Left s w) :
    Follows s w (asNumber (if wide then 4 else 2)) (Parse.asNumber wide) := by
  cases wide
  · exact follows_as2 h
  · exact follows_as4 h

/-- `NLRI(afw)` follows its parser (43 R125). -/
theorem follows_nlri {s : State} {w : Run} (afw : Nat) (h : Left s w) :
    Follows s w (nlri afw) (Parse.pfx s.cfg afw) := by
  unfold nlri Parse.pfx
  refine (follows_u8 h).bind fun l t w' ht hq => ?_
  rw [← hq.cfg_eq]
  unfold nlriAfter
  have hcfg : ∀ (f : Bool → Op Prefix) (p : Parser Prefix), Follows t w' (f t.cfg.nlriMaskTail) p →
      Follows t w' (askCfg Cfg.nlriMaskTail >>= f) p := by
    intro f p hf
    unfold Follows at hf ⊢
    rw [Op.bind_ok (askCfg_apply _ t)]
    exact hf
  refine hcfg _ _ ?_
  by_cases hl : 8 * afw < l.toNat
  · rw [if_pos hl, if_pos hl]
    exact ⟨t, rfl, rfl⟩
  · rw [if_neg hl, if_neg hl]
    exact (follows_bytes _ ht).bind fun b u w'' hu _ => follows_pure hu _

theorem follows_repeated {α : Type} {x : Op α} {p : Parser α} (base : State)
    (h : ∀ s w, Left s w → Quiet base s → Follows s w x p) (n : Nat) {s : State} {w : Run} (hl : Left s w)
    (hq : Quiet base s) : Follows s w (repeated n x) (Parse.repeated n p) := by
  induction n generalizing s w with
  | zero => exact follows_pure hl _
  | succ n ih =>
    refine (h s w hl hq).bind fun a t w' ht hqt => ?_
    exact (ih ht (hq.trans hqt)).bind fun as u w'' hu _ => follows_pure hu _

/-- `PEER()` follows its parser (45 R143). -/
theorem follows_peer {s : State} {w : Run} (h : Left s w) : Follows s w peer Parse.peer := by
  unfold peer Parse.peer peerAfter
  refine (follows_u8 h).bind fun flags t w1 h1 _ => ?_
  refine (follows_u32 h1).bind fun id t w2 h2 _ => ?_
  refine (follows_addr ?_ h2).bind fun a t w3 h3 _ => ?_
  · unfold peerAddrWidth
    split <;> simp
  refine (follows_asNumber (flags.getLsbD 1) h3).bind fun n t w4 h4 _ => ?_
  exact follows_pure h4 _

/-! ### The attribute iterator -/

/-- The iterator's registers stand at a window whose bytes left are `w`. -/
def InWindow (s : State) (asw : Nat) (w : Run) : Prop :=
  ∃ c, AtWindow s c asw w

/-- Nothing but `AT_CUR` may differ. -/
def OnlyAtCur (s t : State) : Prop :=
  t = { s with atCur := t.atCur }

/-- One attribute form at the window: it fits and is taken, or it does not and nothing changes (44 R131). -/
theorem attrForm_cases {s : State} {c asw : Nat} {f t : Byte} {more : Run} (ext : Bool)
    (h : AtWindow s c asw (f :: t :: more)) :
    (more.length < attrHeaderLen ext - 2 ∧ attrForm f ext s = .error (.raised .malformedAttribute) s) ∨
      (attrHeaderLen ext - 2 ≤ more.length ∧
        ((more.length - (attrHeaderLen ext - 2) < be (more.take (attrHeaderLen ext - 2)) ∧
            attrForm f ext s = .error (.raised .malformedAttribute) s) ∨
          (be (more.take (attrHeaderLen ext - 2)) ≤ more.length - (attrHeaderLen ext - 2) ∧
            ∃ u, attrForm f ext s = .ok
              ⟨f, t, BitVec.ofNat 16 (be (more.take (attrHeaderLen ext - 2))),
                (more.drop (attrHeaderLen ext - 2)).take (be (more.take (attrHeaderLen ext - 2))), asw⟩ u ∧
              OnlyAtCur s u ∧
              InWindow u asw
                ((more.drop (attrHeaderLen ext - 2)).drop (be (more.take (attrHeaderLen ext - 2))))))) := by
  obtain ⟨hc, hl, hw, hr⟩ := h
  obtain ⟨d, hd, hhl⟩ : ∃ d, attrHeaderLen ext - 2 = d ∧ attrHeaderLen ext = d + 2 := by
    cases ext <;> exact ⟨_, rfl, rfl⟩
  rw [hd]
  simp only [List.length_cons] at hl hr
  unfold attrForm
  rw [Op.bind_ok (readReq_some hc), Op.bind_ok (readReq_some hl), Op.bind_ok (readReq_some hw)]
  simp only [hhl]
  by_cases h1 : more.length < d
  · refine .inl ⟨h1, ?_⟩
    rw [if_pos (by omega)]
    rfl
  · refine .inr ⟨by omega, ?_⟩
    rw [if_neg (by omega)]
    obtain ⟨k, hk⟩ : ∃ k, more.length = d + k := ⟨more.length - d, by omega⟩
    have e1 : more.length + 1 + 1 = 1 + (1 + (d + k)) := by omega
    rw [e1] at hr
    obtain ⟨-, hr1⟩ := Memory.readRun_take_drop _ _ _ _ _ hr
    obtain ⟨ht, hr2⟩ := Memory.readRun_take_drop _ _ _ _ _ hr1
    obtain ⟨ha, hr3⟩ := Memory.readRun_take_drop _ _ _ _ _ hr2
    simp only [List.drop_succ_cons, List.drop_zero, List.take_succ_cons, List.take_zero] at ht ha hr3
    rw [Op.bind_ok (memRead_some ht), Nat.add_sub_cancel,
      Op.bind_ok (memRead_some (show s.fb.readRun (c + 2) d = some (more.take d) by simpa [Nat.add_assoc] using ha))]
    by_cases h2 : more.length - d < be (more.take d)
    · refine .inl ⟨h2, ?_⟩
      rw [if_pos (by omega)]
      rfl
    · refine .inr ⟨by omega, ?_⟩
      rw [if_neg (by omega)]
      obtain ⟨m, hm⟩ : ∃ m, k = be (more.take d) + m := ⟨k - be (more.take d), by omega⟩
      rw [hm] at hr3
      obtain ⟨hv, hrest⟩ := Memory.readRun_take_drop _ _ _ _ _ hr3
      have e2 : c + 1 + 1 + d = c + (d + 2) := by omega
      rw [e2] at hv hrest
      rw [Op.bind_ok (memRead_some hv)]
      have e3 : ((more.drop d).drop (be (more.take d))).length = m := by
        simp only [List.length_drop]
        omega
      refine ⟨{ s with atCur := some (c + (d + 2) + be (more.take d)) },
        by rw [Op.bind_ok (update_apply _ _), ofNat_be_byte]; rfl, rfl, c + (d + 2) + be (more.take d), rfl, ?_, hw, ?_⟩
      · show s.atLim = _
        rw [hl, e3]
        congr 1
        omega
      · rw [e3]
        exact hrest

/-- `ATTRS`' loop follows the list walk (44 R130, R131), when its bound exceeds the bytes left. -/
theorem attrLoop_follows (asw : Nat) (k : Nat) {s : State} {w : Run} (hk : w.length < k) (h : InWindow s asw w) :
    match Parse.attrList s.cfg asw k w with
    | .ok as => ∃ t, attrLoop k s = .ok as t ∧ OnlyAtCur s t
    | .error e => ∃ t, attrLoop k s = .error (.raised e) t ∧ OnlyAtCur s t := by
  induction k generalizing s w with
  | zero => omega
  | succ k ih =>
    obtain ⟨c, hw⟩ := h
    obtain ⟨hc, hl, ha, hr⟩ := hw
    have hnext : ∀ (f t : Byte) (more : Run), w = f :: t :: more → 1 ≤ more.length → attrNext s =
        (do let a ← attrForm f (attrIsExt s.cfg f); pure (some a) : Op (Option Attr)) s := by
      intro f t more hwe hmore
      subst hwe
      simp only [List.length_cons] at hl hr
      unfold attrNext
      rw [Op.bind_ok (readReq_some hc), Op.bind_ok (readReq_some hl), if_neg (by omega), if_neg (by omega)]
      rw [show more.length + 1 + 1 = 1 + (more.length + 1) by omega] at hr
      obtain ⟨hf, -⟩ := Memory.readRun_take_drop _ _ _ _ _ hr
      rw [Op.bind_ok (memRead_some hf), Op.bind_ok (askCfg_apply _ s)]
      simp
    have hshort : ∀ n, w.length = n → 0 < n → n < 3 → attrLoop (k + 1) s = .error (.raised .malformedAttribute) s := by
      intro n hn h0 h3
      unfold attrLoop
      refine Op.bind_error ?_
      unfold attrNext
      rw [Op.bind_ok (readReq_some hc), Op.bind_ok (readReq_some hl), if_neg (by omega), if_pos (by omega)]
      rfl
    match w, hk, hl, hr, hnext, hshort with
    | [], _, hl, _, _, _ =>
      refine ⟨s, ?_, rfl⟩
      unfold attrLoop
      have hn : attrNext s = .ok none s := by
        unfold attrNext
        rw [Op.bind_ok (readReq_some hc), Op.bind_ok (readReq_some hl), if_pos (by simp)]
        rfl
      rw [Op.bind_ok hn]
      rfl
    | [x], _, _, _, _, hshort => exact ⟨s, hshort 1 rfl (by omega) (by omega), rfl⟩
    | [x, y], _, _, _, _, hshort => exact ⟨s, hshort 2 rfl (by omega) (by omega), rfl⟩
    | f :: t :: a :: more, hk, hl, hr, hnext, _ =>
      have hn := hnext f t (a :: more) rfl (by simp)
      have hwin : AtWindow s c asw (f :: t :: a :: more) := ⟨hc, hl, ha, hr⟩
      have hcase := attrForm_cases (attrIsExt s.cfg f) hwin
      have fail : ∀ u, attrForm f (attrIsExt s.cfg f) s = .error (.raised .malformedAttribute) u →
          attrLoop (k + 1) s = .error (.raised .malformedAttribute) u := by
        intro u hu
        unfold attrLoop
        refine Op.bind_error ?_
        rw [hn]
        exact Op.bind_error hu
      have good : ∀ (x : Attr) (u : State) (w' : Run), attrForm f (attrIsExt s.cfg f) s = .ok x u → OnlyAtCur s u →
          InWindow u asw w' → w'.length < k →
          match (Parse.attrList s.cfg asw k w').map (fun as => x :: as) with
          | .ok as => ∃ t, attrLoop (k + 1) s = .ok as t ∧ OnlyAtCur s t
          | .error e => ∃ t, attrLoop (k + 1) s = .error (.raised e) t ∧ OnlyAtCur s t := by
        intro x u w' hu hou hwu hlen
        have hcfg : u.cfg = s.cfg := by
          rw [hou]
        have := ih hlen hwu
        rw [hcfg] at this
        have hstep : attrLoop (k + 1) s = (do let as ← attrLoop k; pure (x :: as) : Op (List Attr)) u := by
          conv_lhs => unfold attrLoop
          rw [Op.bind_ok (show attrNext s = .ok (some x) u by rw [hn]; exact Op.bind_ok hu)]
        cases hp : Parse.attrList s.cfg asw k w' with
        | error e =>
          simp only [hp] at this
          obtain ⟨v, hv, hov⟩ := this
          refine ⟨v, by rw [hstep]; exact Op.bind_error hv, ?_⟩
          unfold OnlyAtCur at hov hou ⊢
          rw [hov, hou]
        | ok as =>
          simp only [hp] at this
          obtain ⟨v, hv, hov⟩ := this
          refine ⟨v, by rw [hstep, Op.bind_ok hv]; rfl, ?_⟩
          unfold OnlyAtCur at hov hou ⊢
          rw [hov, hou]
      unfold Parse.attrList
      cases hext : attrIsExt s.cfg f with
      | false =>
        rw [hext] at hcase fail good
        simp only [Bool.false_eq_true, if_false]
        simp only [attrHeaderLen, Bool.false_eq_true, if_false, List.length_cons, List.take_succ_cons, List.take_zero,
          List.drop_succ_cons, List.drop_zero, be_singleton, Nat.add_sub_cancel, show 3 - 2 = 1 from rfl] at hcase
        by_cases hlt : more.length < a.toNat
        · rw [if_pos hlt]
          rcases hcase with ⟨h1, -⟩ | ⟨-, ⟨-, h2⟩ | ⟨h2, -⟩⟩
          · omega
          · exact ⟨s, fail s h2, rfl⟩
          · omega
        · rw [if_neg hlt]
          rcases hcase with ⟨h1, -⟩ | ⟨-, ⟨h2, -⟩ | ⟨-, u, hu, hou, hwu⟩⟩
          · omega
          · omega
          · refine good _ u _ hu hou hwu ?_
            simp only [List.length_cons, List.length_drop] at hk ⊢
            omega
      | true =>
        rw [hext] at hcase fail good
        simp only [if_true]
        simp only [attrHeaderLen, if_true, show 4 - 2 = 2 from rfl] at hcase
        match more, hk, hcase with
        | [], _, hcase =>
          rcases hcase with ⟨-, h1⟩ | ⟨h1, -⟩
          · exact ⟨s, fail s h1, rfl⟩
          · simp at h1
        | b :: more, hk, hcase =>
          simp only [List.length_cons, List.take_succ_cons, List.take_zero, List.drop_succ_cons, List.drop_zero]
            at hcase
          rw [show more.length + 1 + 1 - 2 = more.length by omega] at hcase
          simp only
          by_cases hlt : more.length < be [a, b]
          · rw [if_pos hlt]
            rcases hcase with ⟨h1, -⟩ | ⟨-, ⟨-, h2⟩ | ⟨h2, -⟩⟩
            · omega
            · exact ⟨s, fail s h2, rfl⟩
            · omega
          · rw [if_neg hlt]
            rcases hcase with ⟨h1, -⟩ | ⟨-, ⟨h2, -⟩ | ⟨-, u, hu, hou, hwu⟩⟩
            · omega
            · omega
            · refine good _ u _ hu hou hwu ?_
              simp only [List.length_cons, List.length_drop] at hk ⊢
              omega

/-- `ATTRS(n, asw)` follows its parser (44 R130). -/
theorem follows_attrs {s : State} {w : Run} (asw n : Nat) (h : Left s w) :
    Follows s w (attrs n asw) (Parse.attrs s.cfg asw n) := by
  obtain ⟨c, hc, hl, hr⟩ := h
  unfold attrs
  refine follows_readReq hc ?_
  have hb := follows_bytes n ⟨c, hc, hl, hr⟩
  unfold Parse.attrs
  unfold Follows at hb ⊢
  rw [Parse.bind_apply]
  unfold Parse.take at hb ⊢
  by_cases hn : w.length < n
  · simp only [hn, if_true] at hb ⊢
    obtain ⟨t, h1, h2⟩ := hb
    exact ⟨t, Op.bind_error h1, h2⟩
  · obtain ⟨k, hk⟩ : ∃ k, w.length = n + k := ⟨w.length - n, by omega⟩
    rw [hk] at hr
    obtain ⟨h1, h2⟩ := Memory.readRun_take_drop _ _ _ _ _ hr
    simp only [if_neg hn]
    have hx : bytes n s = .ok (w.take n) { s with cur := some (c + n) } := extract_ok hc hl (by omega) h1
    have htl : (w.take n).length = n := by simp; omega
    have hloop := attrLoop_follows asw (n + 1) (w := w.take n)
      (s := { s with cur := some (c + n), atCur := some c, atLim := some (c + n), atAsw := some asw })
      (by omega) ⟨c, rfl, by rw [htl], rfl, by rw [htl]; exact h1⟩
    simp only at hloop
    have hrun : (do
        let _ ← bytes n
        update fun s => { s with atCur := some c, atLim := some (c + n), atAsw := some asw }
        attrLoop (n + 1) : Op (List Attr)) s =
        attrLoop (n + 1) { s with cur := some (c + n), atCur := some c, atLim := some (c + n), atAsw := some asw } := by
      rw [Op.bind_ok hx, Op.bind_ok (update_apply _ _)]
    rw [hrun]
    cases hp : Parse.attrList s.cfg asw (n + 1) (w.take n) with
    | error e =>
      simp only [hp] at hloop
      obtain ⟨t, ht, hot⟩ := hloop
      refine ⟨t, ht, ?_⟩
      rw [hot]
      rfl
    | ok as =>
      simp only [hp] at hloop
      obtain ⟨t, ht, hot⟩ := hloop
      refine ⟨t, ht, ⟨c + n, ?_, ?_, ?_⟩, ?_⟩
      · rw [hot]
      · rw [hot]
        simp only [hl, List.length_drop, Option.some.injEq]
        omega
      · rw [hot]
        simpa [hk] using h2
      · rw [hot]
        exact ⟨rfl, rfl, rfl, rfl, rfl⟩

/-! ### Before and at the entry of Dispatching -/

/-- `TS` as a number: the sum of 10_state R14 does not wrap. -/
theorem timestamp_toNat (cfg : Cfg) (sec u : Word) :
    (timestamp cfg sec u).toNat = sec.toNat * 1000000 + (if cfg.honourUs then u.toNat else 0) := by
  have h1 := sec.isLt
  have h2 := u.isLt
  have e1 : (sec.setWidth 64).toNat = sec.toNat := by
    rw [BitVec.toNat_setWidth]
    exact Nat.mod_eq_of_lt (by omega)
  have e2 : (u.setWidth 64).toNat = u.toNat := by
    rw [BitVec.toNat_setWidth]
    exact Nat.mod_eq_of_lt (by omega)
  have e3 : (1000000#64).toNat = 1000000 := by decide
  unfold timestamp
  cases cfg.honourUs
  · simp only [Bool.false_eq_true, if_false]
    bv_omega
  · simp only [if_true]
    bv_omega

/-- What `readTimestamp` does in a state with a decoded header: nothing to a frame whose microsecond field is cut (assumption
12), else `TS_USEC` and `TS` from the four bytes at 12 or from 0 (41 R103). -/
theorem readTimestamp_eq {t : State} {et : Bool} {len sec : Word} (h1 : t.et = some et) (h2 : t.len = some len)
    (h3 : t.tsSec = some sec) :
    (headerCut t.cfg et len = true → readTimestamp t = .ok () t) ∧
    (headerCut t.cfg et len = false → ∀ b, (et = true → t.fb.readRun 12 4 = some b) →
      ∀ usec, usec = (if et then BitVec.ofNat 32 (be b) else 0) →
      readTimestamp t = .ok () { t with tsUsec := some usec, ts := some (timestamp t.cfg sec usec) }) := by
  have h : ∀ r, (if headerCut t.cfg et len then pure ()
    else if et then do
      let u ← memRead 12 4
      let usec : Word := BitVec.ofNat 32 (be u)
      update fun s => { s with tsUsec := some usec, ts := some (timestamp t.cfg sec usec) }
    else
      update fun s => { s with tsUsec := some 0, ts := some (timestamp t.cfg sec 0) } : Op Unit) t = r →
        readTimestamp t = r := by
    intro r hr
    rw [readTimestamp, Op.bind_ok (readHeaderCut_some h1 h2), ← hr]
    split
    · rfl
    · rw [Op.bind_ok (askCfg_apply _ _), Op.bind_ok (readReq_some h1), Op.bind_ok (readReq_some h3)]
      rfl
  refine ⟨fun hc => h _ ?_, fun hc b hb usec hu => h _ ?_⟩
  · rw [if_pos hc]; rfl
  · subst hu
    cases et
    · simp [hc]
    · simp only [hc, Bool.false_eq_true, if_false, if_true]
      rw [Op.bind_ok (memRead_some (hb rfl))]
      rfl

/-- The entry of `Dispatching` on a frame ready for dispatch: the sequencer starts on exactly its body (41 R104, 30 R62). -/
theorem enterClass_ready {s : State} {hd : FrameHdr} {body : Run} (c : RecordClass) (h : Ready s hd body) :
    ∃ t, enterClass c s = .ok () t ∧ Left t body ∧ t.leaveFrame = s.leaveFrame ∧ t.ts = s.ts := by
  obtain ⟨h1, h2, h3, et, h4, h5, h6, h7⟩ := h
  obtain ⟨n, hn, hn'⟩ := Option.map_eq_some_iff.mp h6
  rw [enterClass, Op.bind_ok (readReq_some h5), Op.bind_ok (readReq_some hn), Op.bind_ok (readCountsUs_some h4)]
  refine ⟨_, rfl, ⟨_, rfl, ?_, h7⟩, rfl, rfl⟩
  simp only [Option.some.injEq, countsUs]
  have : ∀ q : Bool, (n.toNat = body.length + if et && q then 4 else 0) →
      (if q && et then 12 + n.toNat else (if et then 16 else 12) + n.toNat) = (if et then 16 else 12) + body.length := by
    intro q
    cases et <;> cases q <;> simp <;> omega
  exact this _ hn'

end Sys2Proof.Machine
end

