-- ==== Sys2Proof/Laws/PerInstr.lean ====
section
/-! SUPPORT. One law per instruction: the length of its opcode, four bytes for a frame (30_encoding R63) and one for an element
(R67, R68, R70). -/

namespace Sys2Proof.Laws

open Sys2Proof.Machine (toBe_length)

/-- The opcode of a frame instruction has four bytes, an element's one. -/
def EncodeLength.Statement (i : Instr) : Prop :=
  ∀ cfg : Cfg, (encode cfg i).length = if i.place = .frame then 4 else 1

theorem EncodeLength.tdV4 : EncodeLength.Statement .tdV4 :=
  fun _ => by simp [encode, Instr.opcode, Instr.place]

theorem EncodeLength.tdV6 : EncodeLength.Statement .tdV6 :=
  fun _ => by simp [encode, Instr.opcode, Instr.place]

theorem EncodeLength.td2Pit : EncodeLength.Statement .td2Pit :=
  fun _ => by simp [encode, Instr.opcode, Instr.place]

theorem EncodeLength.td2RibV4u : EncodeLength.Statement .td2RibV4u :=
  fun _ => by simp [encode, Instr.opcode, Instr.place]

theorem EncodeLength.td2RibV4m : EncodeLength.Statement .td2RibV4m :=
  fun _ => by simp [encode, Instr.opcode, Instr.place]

theorem EncodeLength.td2RibV6u : EncodeLength.Statement .td2RibV6u :=
  fun _ => by simp [encode, Instr.opcode, Instr.place]

theorem EncodeLength.td2RibV6m : EncodeLength.Statement .td2RibV6m :=
  fun _ => by simp [encode, Instr.opcode, Instr.place]

theorem EncodeLength.td2Ribg : EncodeLength.Statement .td2Ribg :=
  fun _ => by simp [encode, Instr.opcode, Instr.place]

theorem EncodeLength.td2RibV4uAp : EncodeLength.Statement .td2RibV4uAp :=
  fun _ => by simp [encode, Instr.opcode, Instr.place]

theorem EncodeLength.td2RibV4mAp : EncodeLength.Statement .td2RibV4mAp :=
  fun _ => by simp [encode, Instr.opcode, Instr.place]

theorem EncodeLength.td2RibV6uAp : EncodeLength.Statement .td2RibV6uAp :=
  fun _ => by simp [encode, Instr.opcode, Instr.place]

theorem EncodeLength.td2RibV6mAp : EncodeLength.Statement .td2RibV6mAp :=
  fun _ => by simp [encode, Instr.opcode, Instr.place]

theorem EncodeLength.td2RibgAp : EncodeLength.Statement .td2RibgAp :=
  fun _ => by simp [encode, Instr.opcode, Instr.place]

theorem EncodeLength.b4Sc : EncodeLength.Statement .b4Sc :=
  fun _ => by simp [encode, Instr.opcode, Instr.place]

theorem EncodeLength.b4ScEt : EncodeLength.Statement .b4ScEt :=
  fun _ => by simp [encode, Instr.opcode, Instr.place]

theorem EncodeLength.b4Msg : EncodeLength.Statement .b4Msg :=
  fun _ => by simp [encode, Instr.opcode, Instr.place]

theorem EncodeLength.b4MsgEt : EncodeLength.Statement .b4MsgEt :=
  fun _ => by simp [encode, Instr.opcode, Instr.place]

theorem EncodeLength.b4Msg4 : EncodeLength.Statement .b4Msg4 :=
  fun _ => by simp [encode, Instr.opcode, Instr.place]

theorem EncodeLength.b4Msg4Et : EncodeLength.Statement .b4Msg4Et :=
  fun _ => by simp [encode, Instr.opcode, Instr.place]

theorem EncodeLength.b4Sc4 : EncodeLength.Statement .b4Sc4 :=
  fun _ => by simp [encode, Instr.opcode, Instr.place]

theorem EncodeLength.b4Sc4Et : EncodeLength.Statement .b4Sc4Et :=
  fun _ => by simp [encode, Instr.opcode, Instr.place]

theorem EncodeLength.ospf2 (sub : Half) : EncodeLength.Statement (.ospf2 sub) :=
  fun _ => by simp [encode, Instr.opcode, Instr.place]

theorem EncodeLength.ospf3 (sub : Half) : EncodeLength.Statement (.ospf3 sub) :=
  fun _ => by simp [encode, Instr.opcode, Instr.place]

theorem EncodeLength.ospf3Et (sub : Half) : EncodeLength.Statement (.ospf3Et sub) :=
  fun _ => by simp [encode, Instr.opcode, Instr.place]

theorem EncodeLength.isis (sub : Half) : EncodeLength.Statement (.isis sub) :=
  fun _ => by simp [encode, Instr.opcode, Instr.place]

theorem EncodeLength.isisEt (sub : Half) : EncodeLength.Statement (.isisEt sub) :=
  fun _ => by simp [encode, Instr.opcode, Instr.place]

theorem EncodeLength.peerV4As2 (flags : Byte) : EncodeLength.Statement (.peerV4As2 flags) :=
  fun _ => rfl

theorem EncodeLength.peerV6As2 (flags : Byte) : EncodeLength.Statement (.peerV6As2 flags) :=
  fun _ => rfl

theorem EncodeLength.peerV4As4 (flags : Byte) : EncodeLength.Statement (.peerV4As4 flags) :=
  fun _ => rfl

theorem EncodeLength.peerV6As4 (flags : Byte) : EncodeLength.Statement (.peerV6As4 flags) :=
  fun _ => rfl

theorem EncodeLength.attrShort (flags : Byte) : EncodeLength.Statement (.attrShort flags) :=
  fun _ => rfl

theorem EncodeLength.attrExt (flags : Byte) : EncodeLength.Statement (.attrExt flags) :=
  fun _ => rfl

theorem EncodeLength.nlri (bits : Byte) : EncodeLength.Statement (.nlri bits) :=
  fun _ => rfl

end Sys2Proof.Laws
end

