-- ==== Sys2Proof/Tests/Slice0.lean ====
section
/-! SUPPORT. Tests: opcode words written out from 30_encoding, the checks of WellFormed on ill-formed terms, one-step runs of the
vectors of 95_test_vectors, and for each obligation with hypotheses a state and operands that meet them. -/

namespace Sys2Proof.Tests

open Sys2Proof Sys2Proof.Machine

/-! ## Decoding: words of 30_encoding R63, R67, R68, R70 -/

/-- The instruction read at a place from the bytes given, when all bytes are read. -/
def reads (place : Place) (bytes : Run) : Option Instr :=
  match decode Cfg.default place bytes with
  | .ok (i, []) => some i
  | .ok (_, _ :: _) => none
  | .error _ => none

theorem test_decode_table_dump :
    reads .frame [0x00, 0x0C, 0x00, 0x01] = some .tdV4 ∧ reads .frame [0x00, 0x0C, 0x00, 0x02] = some .tdV6 := by
  decide

theorem test_decode_peer_index_table : reads .frame [0x00, 0x0D, 0x00, 0x01] = some .td2Pit := by decide

theorem test_decode_rib :
    reads .frame [0x00, 0x0D, 0x00, 0x02] = some .td2RibV4u ∧ reads .frame [0x00, 0x0D, 0x00, 0x03] = some .td2RibV4m ∧
    reads .frame [0x00, 0x0D, 0x00, 0x04] = some .td2RibV6u ∧ reads .frame [0x00, 0x0D, 0x00, 0x05] = some .td2RibV6m ∧
    reads .frame [0x00, 0x0D, 0x00, 0x06] = some .td2Ribg := by
  decide

theorem test_decode_add_path :
    reads .frame [0x00, 0x0D, 0x00, 0x08] = some .td2RibV4uAp ∧
    reads .frame [0x00, 0x0D, 0x00, 0x09] = some .td2RibV4mAp ∧
    reads .frame [0x00, 0x0D, 0x00, 0x0A] = some .td2RibV6uAp ∧
    reads .frame [0x00, 0x0D, 0x00, 0x0B] = some .td2RibV6mAp ∧
    reads .frame [0x00, 0x0D, 0x00, 0x0C] = some .td2RibgAp := by
  decide

theorem test_decode_bgp4mp :
    reads .frame [0x00, 0x10, 0x00, 0x00] = some .b4Sc ∧ reads .frame [0x00, 0x10, 0x00, 0x01] = some .b4Msg ∧
    reads .frame [0x00, 0x10, 0x00, 0x04] = some .b4Msg4 ∧ reads .frame [0x00, 0x10, 0x00, 0x05] = some .b4Sc4 := by
  decide

theorem test_decode_bgp4mp_et :
    reads .frame [0x00, 0x11, 0x00, 0x00] = some .b4ScEt ∧ reads .frame [0x00, 0x11, 0x00, 0x01] = some .b4MsgEt ∧
    reads .frame [0x00, 0x11, 0x00, 0x04] = some .b4Msg4Et ∧ reads .frame [0x00, 0x11, 0x00, 0x05] = some .b4Sc4Et := by
  decide

theorem test_decode_ospf :
    reads .frame [0x00, 0x0B, 0x12, 0x34] = some (.ospf2 0x1234) ∧
    reads .frame [0x00, 0x30, 0x00, 0x00] = some (.ospf3 0) ∧
    reads .frame [0x00, 0x31, 0xFF, 0xFF] = some (.ospf3Et 0xFFFF) := by
  decide

theorem test_decode_isis :
    reads .frame [0x00, 0x20, 0x00, 0x07] = some (.isis 7) ∧ reads .frame [0x00, 0x21, 0x80, 0x00] = some (.isisEt 0x8000) := by
  decide

/-- PEER rows: `flags & 3`; the other bits are kept (30 R68). -/
theorem test_decode_peer :
    reads .peer [0xFC] = some (.peerV4As2 0xFC) ∧ reads .peer [0x01] = some (.peerV6As2 1) ∧
    reads .peer [0x82] = some (.peerV4As4 0x82) ∧ reads .peer [0x03] = some (.peerV6As4 3) := by
  decide

/-- ATTR rows: bit 4 of the flags (30 R70). -/
theorem test_decode_attr :
    reads .attr [0xEF] = some (.attrShort 0xEF) ∧ reads .attr [0x10] = some (.attrExt 0x10) := by
  decide

theorem test_decode_nlri : reads .nlri [0x00] = some (.nlri 0) ∧ reads .nlri [0xFF] = some (.nlri 255) := by decide

/-- Pairs that 30 R65 names as unsupported, and a cut opcode. -/
theorem test_decode_refuses_by_name :
    decode Cfg.default .frame [0x00, 0x0D, 0x00, 0x07] = .error (.unsupportedRecord 13 7) ∧
    decode Cfg.default .frame [0x00, 0x10, 0x00, 0x06] = .error (.unsupportedRecord 16 6) ∧
    decode Cfg.default .frame [0x00, 0x63, 0x00, 0x00] = .error (.unsupportedRecord 99 0) ∧
    decode Cfg.default .frame [0x00, 0x0D, 0x00] = .error .outOfBytes ∧
    decode Cfg.default .nlri [] = .error .outOfBytes := by
  decide

/-- The example header of 41 R102 and header V22's H16 form (30 R60, R61). -/
theorem test_encode_header :
    encodeHeader 1600000000 13 1 26 =
      [0x5F, 0x5E, 0x10, 0x00, 0x00, 0x0D, 0x00, 0x01, 0x00, 0x00, 0x00, 0x1A] ∧
    encodeHeaderEt 1600000014 17 6 2 1 =
      [0x5F, 0x5E, 0x10, 0x0E, 0x00, 0x11, 0x00, 0x06, 0x00, 0x00, 0x00, 0x02, 0x00, 0x00, 0x00, 0x01] := by
  decide

/-- Words of the opcode table, as the host numbers their bits. -/
theorem test_table_words :
    decodeTableWord 32 0x000D000C = some .td2RibgAp ∧ decodeTableWord 32 0x00310000 = some (.ospf3Et 0) ∧
    decodeTableWord 16 0x00 = some (.peerV4As2 0) ∧ decodeTableWord 32 0x03 = some (.peerV6As4 3) ∧
    decodeTableWord 8 0x00 = some (.attrShort 0) ∧ decodeTableWord 8 0x10 = some (.attrExt 16) ∧
    decodeTableWord 0 0 = some (.nlri 0) := by
  decide

/-! ## WellFormed: an ill-formed term for each check -/

theorem test_wf_peerV4As2 : (Instr.peerV4As2 0x01).wf Cfg.default = false := by decide

theorem test_wf_peerV6As2 : (Instr.peerV6As2 0x03).wf Cfg.default = false := by decide

theorem test_wf_peerV4As4 : (Instr.peerV4As4 0x00).wf Cfg.default = false := by decide

theorem test_wf_peerV6As4 : (Instr.peerV6As4 0x02).wf Cfg.default = false := by decide

theorem test_wf_attrShort : (Instr.attrShort 0x10).wf Cfg.default = false := by decide

theorem test_wf_attrExt : (Instr.attrExt 0xEF).wf Cfg.default = false := by decide

theorem test_wf_types : { Cfg.default with tIsis := 11 }.wf = false := by decide

theorem test_wf_td_subtypes : { Cfg.default with stTdV6 := 1 }.wf = false := by decide

theorem test_wf_td2_subtypes : { Cfg.default with stRibV4m := 2 }.wf = false := by decide

theorem test_wf_b4_subtypes : { Cfg.default with stB4Sc4 := 4 }.wf = false := by decide

theorem test_wf_add_path_hole : { Cfg.default with apHi := 11 }.wf = false := by decide

theorem test_wf_add_path_overlap : { Cfg.default with apLo := 6 }.wf = false := by decide

theorem test_wf_et_missing : { Cfg.default with etTypes := [17, 33] }.wf = false := by decide

theorem test_wf_et_extra : { Cfg.default with etTypes := [16, 17, 33, 49] }.wf = false := by decide

theorem test_wf_afi : { Cfg.default with afiV6 := 1 }.wf = false := by decide

theorem test_wf_default : Cfg.default.wf = true := by decide

/-! ## Small states -/

/-- A frame whole in `FB`, its header decoded, state `Dispatching`. -/
def frameState (typ sub : Half) (et : Bool) (body : Run) : State :=
  { State.reset with
    fsm := .dispatching, busy := true, tsSec := some 1600000010, typ := some typ, subtyp := some sub
    len := some (BitVec.ofNat 32 body.length), et := some et, hlen := some (if et then 16 else 12)
    tsUsec := some (if et then 1 else 0), ts := some (if et then 1600000010000001 else 1600000010000000)
    fb := Memory.cells 0 ((if et then encodeHeaderEt 1600000010 typ sub (BitVec.ofNat 32 body.length) 1
      else encodeHeader 1600000010 typ sub (BitVec.ofNat 32 body.length)) ++ body) }

/-- The header a Record of `frameState` carries. -/
def hdr (typ sub : Half) (et : Bool) : FrameHdr :=
  ⟨if et then 1600000010000001 else 1600000010000000, typ, sub⟩

/-- The main cursor at 12, with exactly the bytes given before the limit. -/
def cursorState (bytes : Run) : State :=
  { State.reset with
    fsm := .dispatching, busy := true, fb := Memory.cells 12 bytes, cur := some 12, lim := some (12 + bytes.length)
    afw := some 4 }

/-- The iterator at the start of a window of the bytes given. -/
def windowState (bytes : Run) : State :=
  { State.reset with
    fsm := .dispatching, busy := true, fb := Memory.cells 12 bytes, atCur := some 12
    atLim := some (12 + bytes.length), atAsw := some 4, focus := .attr }

/-- Idle on a stream. -/
def idleState (src : Run) (mark : SrcEnd) : State :=
  { State.reset with src := src, srcEnd := mark }

/-- Waiting for a header. -/
def headerState (src : Run) (mark : SrcEnd) : State :=
  { idleState src mark with busy := true }

/-- A header read and decoded, its body awaited. -/
def bodyState (typ : Half) (et : Bool) (len : Word) (src : Run) (mark : SrcEnd) : State :=
  { headerState src mark with
    fsm := .awaitingBody, fb := Memory.cells 0 (encodeHeader 1600000010 typ 0 len), tsSec := some 1600000010
    typ := some typ, subtyp := some 0, len := some len, et := some et, hlen := some (if et then 16 else 12) }

/-- The result and the Record of a next state. -/
def seen (o : Host.Outcome State Fault Refusal) : Option (Option ResKind × Option Record) :=
  match o with
  | .next s => some (s.res, s.record)
  | .fault _ => none
  | .refused _ => none

/-- The next state, if there is one. -/
def nextState (o : Host.Outcome State Fault Refusal) : Option State :=
  match o with
  | .next s => some s
  | .fault _ => none
  | .refused _ => none

/-- What an operation gives: its value, or the stop it met, and the main cursor then. -/
def given {α : Type} (r : EStateM.Result Stop State α) : (Option α ⊕ Stop) × Option Nat :=
  match r with
  | .ok a s => (.inl (some a), s.cur)
  | .error e s => (.inr e, s.cur)

/-- The elements a unit has yielded, and where its cursors stand. -/
def yielded (o : Host.Outcome State Fault Refusal) : Option (List Element × Option Nat × Option Nat) :=
  match o with
  | .next s => some (s.built, s.cur, s.atCur)
  | .fault _ => none
  | .refused _ => none

/-! ## One step of each frame instruction -/

/-- P3, frame 2. -/
theorem test_tdV4 :
    seen (exec .tdV4 (frameState 12 1 false
      [0x00, 0x00, 0x00, 0x01, 0xC6, 0x33, 0x64, 0x00, 0x18, 0x01, 0x5F, 0x5E, 0x0F, 0x00, 0xC0, 0x00, 0x02, 0x01,
       0xFD, 0xE8, 0x00, 0x04, 0x40, 0x01, 0x01, 0x00])) =
      some (some .record, some (.tableDump (hdr 12 1 false) 0 1 [0xC6, 0x33, 0x64, 0x00] 24 1 1599999744
        [0xC0, 0x00, 0x02, 0x01] (.as2 65000) [⟨0x40, 1, 1, [0x00], 2⟩])) := by
  decide

/-- V42: the attribute window does not fit the body. -/
theorem test_tdV4_window :
    seen (exec .tdV4 (frameState 12 1 false
      [0x00, 0x00, 0x00, 0x01, 0xC6, 0x33, 0x64, 0x00, 0x18, 0x01, 0x5F, 0x5E, 0x0F, 0x00, 0xC0, 0x00, 0x02, 0x01,
       0xFD, 0xE8, 0x00, 0x05, 0x40, 0x01, 0x01, 0x00])) = some (some .truncatedInput, none) := by
  decide

/-- V40. -/
theorem test_tdV6 :
    seen (exec .tdV6 (frameState 12 2 false
      [0x00, 0x01, 0x00, 0x02, 0x20, 0x01, 0x0D, 0xB8, 0x00, 0x01, 0x00, 0x00, 0x00, 0x00, 0x00, 0x00, 0x00, 0x00,
       0x00, 0x00, 0x30, 0x01, 0x5F, 0x5E, 0x10, 0x00, 0x20, 0x01, 0x0D, 0xB8, 0x00, 0x00, 0x00, 0x00, 0x00, 0x00,
       0x00, 0x00, 0x00, 0x00, 0x00, 0x01, 0xFC, 0x00, 0x00, 0x07, 0x40, 0x01, 0x01, 0x00, 0x40, 0x02, 0x00])) =
      some (some .record, some (.tableDump (hdr 12 2 false) 1 2
        [0x20, 0x01, 0x0D, 0xB8, 0, 1, 0, 0, 0, 0, 0, 0, 0, 0, 0, 0] 48 1 1600000000
        [0x20, 0x01, 0x0D, 0xB8, 0, 0, 0, 0, 0, 0, 0, 0, 0, 0, 0, 1] (.as2 64512)
        [⟨0x40, 1, 1, [0x00], 2⟩, ⟨0x40, 2, 0, [], 2⟩])) := by
  decide

/-- P1, frame 1: two entries of different widths. -/
theorem test_td2Pit :
    seen (exec .td2Pit (frameState 13 1 false
      [0x0A, 0x00, 0x00, 0x01, 0x00, 0x03, 0x72, 0x72, 0x63, 0x00, 0x02, 0x00, 0xC0, 0x00, 0x02, 0x01, 0xC0, 0x00,
       0x02, 0x01, 0xFC, 0x00, 0x03, 0xC0, 0x00, 0x02, 0x02, 0x20, 0x01, 0x0D, 0xB8, 0x00, 0x00, 0x00, 0x00, 0x00,
       0x00, 0x00, 0x00, 0x00, 0x00, 0x00, 0x02, 0x00, 0x01, 0xE2, 0x40])) =
      some (some .record, some (.peerIndexTable (hdr 13 1 false) 0x0A000001 [0x72, 0x72, 0x63]
        [⟨0x00, 0xC0000201, [0xC0, 0x00, 0x02, 0x01], .as2 64512⟩,
         ⟨0x03, 0xC0000202, [0x20, 0x01, 0x0D, 0xB8, 0, 0, 0, 0, 0, 0, 0, 0, 0, 0, 0, 2], .as4 123456⟩])) := by
  decide

/-- V44: an empty name and no peers. -/
theorem test_td2Pit_empty :
    seen (exec .td2Pit (frameState 13 1 false [0x0A, 0x00, 0x00, 0x01, 0x00, 0x00, 0x00, 0x00])) =
      some (some .record, some (.peerIndexTable (hdr 13 1 false) 0x0A000001 [] [])) := by
  decide

/-- The false variant (e) of 95: frame 2 of P1 read without a path identifier. -/
theorem test_td2RibV4u :
    seen (exec .td2RibV4u (frameState 13 2 false
      [0x00, 0x00, 0x00, 0x00, 0x18, 0xC0, 0x00, 0x02, 0x00, 0x01, 0x00, 0x01, 0x5F, 0x5E, 0x10, 0x00, 0x00, 0x00,
       0x00, 0x07, 0x00, 0x0D, 0x40, 0x01, 0x01])) =
      some (some .record, some (.rib (hdr 13 2 false) 0 ⟨[0xC0, 0x00, 0x02, 0x00], 24⟩
        [⟨1, 1600000000, none, []⟩])) := by
  decide

/-- P4, frame 1: the second entry is not there. -/
theorem test_td2RibV4u_count :
    seen (exec .td2RibV4u (frameState 13 2 false
      [0x00, 0x00, 0x00, 0x02, 0x00, 0x00, 0x02, 0x00, 0x00, 0x5F, 0x5E, 0x10, 0x00, 0x00, 0x00])) =
      some (some .truncatedInput, none) := by
  decide

/-- P2, frame 2 under the multicast subtype: the attribute overruns its window. -/
theorem test_td2RibV4m :
    seen (exec .td2RibV4m (frameState 13 3 false
      [0x00, 0x00, 0x00, 0x01, 0x10, 0xAC, 0x10, 0x00, 0x01, 0x00, 0x00, 0x5F, 0x5E, 0x10, 0x01, 0x00, 0x04, 0x40,
       0x01, 0x02, 0x00])) = some (some .malformedAttribute, none) := by
  decide

/-- 43 R128: a 128-bit prefix is its 16 bytes. -/
theorem test_td2RibV6u :
    seen (exec .td2RibV6u (frameState 13 4 false
      [0x00, 0x00, 0x00, 0x09, 0x80, 1, 2, 3, 4, 5, 6, 7, 8, 9, 10, 11, 12, 13, 14, 15, 16, 0x00, 0x00])) =
      some (some .record, some (.rib (hdr 13 4 false) 9
        ⟨[1, 2, 3, 4, 5, 6, 7, 8, 9, 10, 11, 12, 13, 14, 15, 16], 128⟩ [])) := by
  decide

/-- V48: stray bits of the last prefix byte are cleared. -/
theorem test_td2RibV6m :
    seen (exec .td2RibV6m (frameState 13 5 false [0x00, 0x00, 0x00, 0x09, 0x14, 0x20, 0x01, 0xFF, 0x00, 0x00])) =
      some (some .record, some (.rib (hdr 13 5 false) 9
        ⟨[0x20, 0x01, 0xF0, 0, 0, 0, 0, 0, 0, 0, 0, 0, 0, 0, 0, 0], 20⟩ [])) := by
  decide

/-- V46: an `afi` of no width. -/
theorem test_td2Ribg :
    seen (exec .td2Ribg (frameState 13 6 false [0x00, 0x00, 0x00, 0x05, 0x00, 0x19, 0x41, 0x00, 0x00, 0x00])) =
      some (some .malformedRecord, none) := by
  decide

/-- P1, frame 2: a path identifier and two attributes tagged 4. -/
theorem test_td2RibV4uAp :
    seen (exec .td2RibV4uAp (frameState 13 8 false
      [0x00, 0x00, 0x00, 0x00, 0x18, 0xC0, 0x00, 0x02, 0x00, 0x01, 0x00, 0x01, 0x5F, 0x5E, 0x10, 0x00, 0x00, 0x00,
       0x00, 0x07, 0x00, 0x0D, 0x40, 0x01, 0x01, 0x00, 0x40, 0x02, 0x06, 0x02, 0x01, 0x00, 0x01, 0xE2, 0x40])) =
      some (some .record, some (.rib (hdr 13 8 false) 0 ⟨[0xC0, 0x00, 0x02, 0x00], 24⟩
        [⟨1, 1600000000, some 7,
          [⟨0x40, 1, 1, [0x00], 4⟩, ⟨0x40, 2, 6, [0x02, 0x01, 0x00, 0x01, 0xE2, 0x40], 4⟩]⟩])) := by
  decide

/-- V47's prefix under an ADD-PATH subtype: length 33 at width 4. -/
theorem test_td2RibV4mAp :
    seen (exec .td2RibV4mAp (frameState 13 9 false
      [0x00, 0x00, 0x00, 0x00, 0x21, 0xC0, 0x00, 0x02, 0x01, 0x00, 0x00, 0x00])) =
      some (some .malformedRecord, none) := by
  decide

/-- 45 R144: a path identifier 0 is present. -/
theorem test_td2RibV6uAp :
    seen (exec .td2RibV6uAp (frameState 13 10 false
      [0, 0, 0, 1, 0x00, 0x00, 0x01, 0x00, 0x02, 0, 0, 0, 3, 0, 0, 0, 0, 0x00, 0x00])) =
      some (some .record, some (.rib (hdr 13 10 false) 1 ⟨[0, 0, 0, 0, 0, 0, 0, 0, 0, 0, 0, 0, 0, 0, 0, 0], 0⟩
        [⟨2, 3, some 0, []⟩])) := by
  decide

/-- 44 R136: an extended length in an ADD-PATH entry. -/
theorem test_td2RibV6mAp :
    seen (exec .td2RibV6mAp (frameState 13 11 false
      [0, 0, 0, 1, 0x00, 0x00, 0x01, 0x00, 0x02, 0, 0, 0, 3, 0, 0, 0, 4, 0x00, 0x05, 0x50, 0x02, 0x00, 0x01, 0xAA])) =
      some (some .record, some (.rib (hdr 13 11 false) 1 ⟨[0, 0, 0, 0, 0, 0, 0, 0, 0, 0, 0, 0, 0, 0, 0, 0], 0⟩
        [⟨2, 3, some 4, [⟨0x50, 2, 1, [0xAA], 4⟩]⟩])) := by
  decide

/-- V45. -/
theorem test_td2RibgAp :
    seen (exec .td2RibgAp (frameState 13 12 false
      [0x00, 0x00, 0x00, 0x05, 0x00, 0x02, 0x01, 0x20, 0x20, 0x01, 0x0D, 0xB8, 0x00, 0x01, 0x00, 0x02, 0x5F, 0x5E,
       0x10, 0x00, 0x00, 0x00, 0x00, 0x2A, 0x00, 0x00])) =
      some (some .record, some (.ribGeneric (hdr 13 12 false) 5 2 1
        ⟨[0x20, 0x01, 0x0D, 0xB8, 0, 0, 0, 0, 0, 0, 0, 0, 0, 0, 0, 0], 32⟩ [⟨2, 1600000000, some 42, []⟩])) := by
  decide

/-- V50. -/
theorem test_b4Sc :
    seen (exec .b4Sc (frameState 16 0 false
      [0xFD, 0xE8, 0xFC, 0x00, 0x00, 0x01, 0x00, 0x02, 0x20, 0x01, 0x0D, 0xB8, 0, 0, 0, 0, 0, 0, 0, 0, 0, 0, 0, 1,
       0x20, 0x01, 0x0D, 0xB8, 0, 0, 0, 0, 0, 0, 0, 0, 0, 0, 0, 2, 0x00, 0x01, 0x00, 0x02])) =
      some (some .record, some (.stateChange (hdr 16 0 false)
        ⟨.as2 65000, .as2 64512, 1, 2, [0x20, 0x01, 0x0D, 0xB8, 0, 0, 0, 0, 0, 0, 0, 0, 0, 0, 0, 1],
          [0x20, 0x01, 0x0D, 0xB8, 0, 0, 0, 0, 0, 0, 0, 0, 0, 0, 0, 2]⟩ 1 2)) := by
  decide

/-- V51 from the extended type: `af` 3. -/
theorem test_b4ScEt :
    seen (exec .b4ScEt (frameState 17 0 true
      [0xFD, 0xE8, 0xFC, 0x00, 0x00, 0x01, 0x00, 0x03, 0xC0, 0x00, 0x02, 0x01, 0xC0, 0x00, 0x02, 0x02, 0x00, 0x01,
       0x00, 0x02])) = some (some .malformedRecord, none) := by
  decide

/-- V53 cut inside the local address. -/
theorem test_b4Msg :
    seen (exec .b4Msg (frameState 16 1 false
      [0xFD, 0xE8, 0xFC, 0x00, 0x00, 0x00, 0x00, 0x01, 0xC0, 0x00, 0x02, 0x01, 0xC0, 0x00, 0x02])) =
      some (some .truncatedInput, none) := by
  decide

/-- V53's head under the extended type, with `af` 0. -/
theorem test_b4MsgEt :
    seen (exec .b4MsgEt (frameState 17 1 true
      [0xFD, 0xE8, 0xFC, 0x00, 0x00, 0x00, 0x00, 0x00, 0xC0, 0x00, 0x02, 0x01, 0xC0, 0x00, 0x02, 0x02])) =
      some (some .malformedRecord, none) := by
  decide

/-- V52's head with a 4-byte AS cut: the local AS number has 3 bytes. -/
theorem test_b4Msg4 :
    seen (exec .b4Msg4 (frameState 16 4 false [0x00, 0x00, 0xFD, 0xE8, 0x00, 0x01, 0xE2])) =
      some (some .truncatedInput, none) := by
  decide

/-- 46 R164: the body of the extended twin starts at 16; `af` 3. -/
theorem test_b4Msg4Et :
    seen (exec .b4Msg4Et (frameState 17 4 true
      [0x00, 0x00, 0xFD, 0xE8, 0x00, 0x01, 0xE2, 0x40, 0x00, 0x00, 0x00, 0x03])) =
      some (some .malformedRecord, none) := by
  decide

/-- P3, frame 1's body under the plain type. -/
theorem test_b4Sc4 :
    seen (exec .b4Sc4 (frameState 16 5 false
      [0x00, 0x00, 0xFD, 0xE8, 0x00, 0x01, 0xE2, 0x40, 0x00, 0x00, 0x00, 0x01, 0xC0, 0x00, 0x02, 0x01, 0xC0, 0x00,
       0x02, 0x02, 0x00, 0x03, 0x00, 0x06])) =
      some (some .record, some (.stateChange (hdr 16 5 false)
        ⟨.as4 65000, .as4 123456, 0, 1, [0xC0, 0x00, 0x02, 0x01], [0xC0, 0x00, 0x02, 0x02]⟩ 3 6)) := by
  decide

/-- P3, frame 1. -/
theorem test_b4Sc4Et :
    seen (exec .b4Sc4Et (frameState 17 5 true
      [0x00, 0x00, 0xFD, 0xE8, 0x00, 0x01, 0xE2, 0x40, 0x00, 0x00, 0x00, 0x01, 0xC0, 0x00, 0x02, 0x01, 0xC0, 0x00,
       0x02, 0x02, 0x00, 0x03, 0x00, 0x06])) =
      some (some .record, some (.stateChange (hdr 17 5 true)
        ⟨.as4 65000, .as4 123456, 0, 1, [0xC0, 0x00, 0x02, 0x01], [0xC0, 0x00, 0x02, 0x02]⟩ 3 6)) := by
  decide

/-- P4, frame 2. -/
theorem test_ospf2 :
    seen (exec (.ospf2 0) (frameState 11 0 false [0xC0, 0x00, 0x02, 0x01, 0xC0, 0x00, 0x02, 0x02, 0x02, 0x01])) =
      some (some .record, some (.ospfv2 (hdr 11 0 false) [0xC0, 0x00, 0x02, 0x01] [0xC0, 0x00, 0x02, 0x02]
        [0x02, 0x01])) := by
  decide

/-- V55. -/
theorem test_ospf2_cut :
    seen (exec (.ospf2 0) (frameState 11 0 false [0xC0, 0x00, 0x02, 0x01, 0xC0, 0x00, 0x02])) =
      some (some .truncatedInput, none) := by
  decide

/-- V56, second part: `af` 0. -/
theorem test_ospf3 :
    seen (exec (.ospf3 0) (frameState 48 0 false [0x00, 0x00, 0xC0, 0x00, 0x02, 0x01, 0xC0, 0x00, 0x02, 0x02])) =
      some (some .malformedRecord, none) := by
  decide

/-- V56. -/
theorem test_ospf3Et :
    seen (exec (.ospf3Et 0) (frameState 49 0 true
      [0x00, 0x02, 0xFE, 0x80, 0, 0, 0, 0, 0, 0, 0, 0, 0, 0, 0, 0, 0x00, 0x01, 0xFE, 0x80, 0, 0, 0, 0, 0, 0, 0, 0, 0, 0,
       0, 0, 0x00, 0x02, 0x03, 0x01])) =
      some (some .record, some (.ospfv3 (hdr 49 0 true) 2 [0xFE, 0x80, 0, 0, 0, 0, 0, 0, 0, 0, 0, 0, 0, 0, 0x00, 0x01]
        [0xFE, 0x80, 0, 0, 0, 0, 0, 0, 0, 0, 0, 0, 0, 0, 0x00, 0x02] [0x03, 0x01])) := by
  decide

/-- P2, frame 3. -/
theorem test_isis :
    seen (exec (.isis 0) (frameState 32 0 false [0x83, 0x1B, 0x01, 0x00])) =
      some (some .record, some (.isis (hdr 32 0 false) [0x83, 0x1B, 0x01, 0x00])) := by
  decide

/-- V57: an empty body. -/
theorem test_isisEt :
    seen (exec (.isisEt 0) (frameState 33 0 true [])) = some (some .record, some (.isis (hdr 33 0 true) [])) := by
  decide

/-! ## One step of each element instruction -/

/-- 11 bytes; bits 7 to 2 of the flags are kept. -/
theorem test_peerV4As2 :
    yielded (exec (.peerV4As2 0xF0)
      (cursorState [0xF0, 0xC0, 0x00, 0x02, 0x01, 0xC0, 0x00, 0x02, 0x01, 0xFC, 0x00, 0xEE])) =
      some ([.peer ⟨0xF0, 0xC0000201, [0xC0, 0x00, 0x02, 0x01], .as2 64512⟩], some 23, none) := by
  decide

/-- 23 bytes. -/
theorem test_peerV6As2 :
    yielded (exec (.peerV6As2 1)
      (cursorState [0x01, 0, 0, 0, 9, 1, 2, 3, 4, 5, 6, 7, 8, 9, 10, 11, 12, 13, 14, 15, 16, 0xFF, 0xFF])) =
      some ([.peer ⟨1, 9, [1, 2, 3, 4, 5, 6, 7, 8, 9, 10, 11, 12, 13, 14, 15, 16], .as2 65535⟩], some 35, none) := by
  decide

/-- The example of 45 R143. -/
theorem test_peerV4As4 :
    yielded (exec (.peerV4As4 2)
      (cursorState [0x02, 0x0A, 0x00, 0x00, 0x01, 0xC0, 0x00, 0x02, 0x01, 0x00, 0x01, 0xE2, 0x40])) =
      some ([.peer ⟨2, 0x0A000001, [0xC0, 0x00, 0x02, 0x01], .as4 123456⟩], some 25, none) := by
  decide

/-- P1's second peer cut by one byte. -/
theorem test_peerV6As4 :
    seen (exec (.peerV6As4 3)
      (cursorState [0x03, 0xC0, 0x00, 0x02, 0x02, 0x20, 0x01, 0x0D, 0xB8, 0, 0, 0, 0, 0, 0, 0, 0, 0, 0, 0, 2, 0x00,
        0x01, 0xE2])) = some (some .truncatedInput, none) := by
  decide

/-- 44 R136: a zero-length value is legal. -/
theorem test_attrShort :
    yielded (exec (.attrShort 0x40) (windowState [0x40, 0x01, 0x00])) =
      some ([.attr ⟨0x40, 1, 0, [], 4⟩], none, some 15) := by
  decide

/-- 44 R136: a declared length of 2 with 1 byte left. -/
theorem test_attrShort_overrun :
    seen (exec (.attrShort 0x40) (windowState [0x40, 0x01, 0x02, 0x00])) = some (some .malformedAttribute, none) := by
  decide

/-- 44 R136: the extended length. -/
theorem test_attrExt :
    yielded (exec (.attrExt 0x50) (windowState [0x50, 0x02, 0x00, 0x06, 0x02, 0x01, 0x00, 0x00, 0xFD, 0xE8])) =
      some ([.attr ⟨0x50, 2, 6, [0x02, 0x01, 0x00, 0x00, 0xFD, 0xE8], 4⟩], none, some 22) := by
  decide

/-- 44 R136: an extended header needs 4 bytes. -/
theorem test_attrExt_cut :
    seen (exec (.attrExt 0x50) (windowState [0x50, 0x02, 0x00])) = some (some .malformedAttribute, none) := by
  decide

/-- V32: stray bits are cleared. -/
theorem test_nlri :
    yielded (exec (.nlri 0x14) (cursorState [0x14, 0x0A, 0x4F, 0xFF])) =
      some ([.pfx ⟨[0x0A, 0x4F, 0xF0, 0x00], 20⟩], some 16, none) := by
  decide

/-- V32 with `NLRI_MASK_TAIL = false`. -/
theorem test_nlri_unmasked :
    yielded (exec (.nlri 0x14)
      { cursorState [0x14, 0x0A, 0x4F, 0xFF] with cfg := { Cfg.default with nlriMaskTail := false } }) =
      some ([.pfx ⟨[0x0A, 0x4F, 0xFF, 0x00], 20⟩], some 16, none) := by
  decide

/-! ## Units, the stream reader, reset -/

/-- V28, V29c: the width is the caller's, and a bad one is malformed. -/
theorem test_asNumber :
    given (asNumber 4 (cursorState [0x00, 0x00, 0xFD, 0xE8])) = (.inl (some (.as4 65000)), some 16) ∧
    given (asNumber 3 (cursorState [0x00, 0x00, 0xFD, 0xE8])) = (.inr (.raised .malformedRecord), some 12) := by
  decide

/-- V72, V74: a window that does not fit, and a cut header in one that does. -/
theorem test_attrs :
    given (attrs 5 2 (cursorState [0x40, 0x01, 0x01, 0x00])) = (.inr (.raised .truncatedInput), some 12) ∧
    (given (attrs 5 4 (cursorState [0x40, 0x01, 0x01, 0x00, 0xAA]))).1 = .inr (.raised .malformedAttribute) := by
  decide

/-- The memory keeps its canonical form under an overlapping write. -/
theorem test_memory_write :
    Memory.write [(0, 1), (1, 2), (5, 6)] 1 [7, 8] = [(0, 1), (1, 7), (2, 8), (5, 6)] := by
  decide

/-- The example of 41 R102. -/
theorem test_haveHeader :
    (nextState (step { headerState [] .eos with
        fsm := .haveHeader
        fb := Memory.cells 0 [0x5F, 0x5E, 0x10, 0x00, 0x00, 0x0D, 0x00, 0x01, 0x00, 0x00, 0x00, 0x1A] })).any (fun t =>
      t.tsSec = some 1600000000 ∧ t.typ = some 13 ∧ t.subtyp = some 1 ∧ t.len = some 26 ∧ t.et = some false ∧
        t.hlen = some 12 ∧ t.fsm = .awaitingBody) = true := by
  decide

/-- V54: the microsecond bytes are drained as header and folded into `TS`. -/
theorem test_awaitBody :
    (nextState (step { bodyState 17 true 2 [0x00, 0x00, 0x00, 0x01, 0x01, 0x02, 0xEE] .eos with
        tsSec := some 1600000014, spos := 12 })).any (fun t =>
      t.ts = some 1600000014000001 ∧ t.spos = 18 ∧ t.src = [0xEE] ∧ t.fsm = .dispatching) = true := by
  decide

/-- V59: three bytes, then the supplier fails. -/
theorem test_awaitHeader_ioerr :
    (nextState (step (headerState [0x5F, 0x5E, 0x10] (.ioerr 7)))).any (fun t =>
      t.res = some .underlyingIOError ∧ t.iocode = some 7 ∧ t.spos = 3 ∧ t.fsm = .done ∧ t.typ = none) = true := by
  decide

/-- A reset in the middle of a frame: the stream stays where it stands (70 R211). -/
theorem test_reset :
    nextState (step { bodyState 13 false 9 [0x01, 0x02] .eos with calls := [.reset] }) =
      some { State.reset with src := [0x01, 0x02] } := by
  decide

/-- The word that `withFetchWord` places is the one the next step runs. -/
theorem test_withFetchWord :
    seen (step (State.reset.withFetchWord 32 0x00200007)) = some (some .record, some (.isis ⟨0, 32, 7⟩ [])) ∧
    yielded (step (State.reset.withFetchWord 32 0x03)) =
      some ([.peer ⟨3, 0, zeros 16, .as4 0⟩], some 37, some 12) ∧
    yielded (step (State.reset.withFetchWord 8 0x10)) = some ([.attr ⟨16, 0, 0, [], 4⟩], some 12, some 16) ∧
    yielded (step (State.reset.withFetchWord 0 0)) = some ([.pfx ⟨zeros 16, 0⟩], some 13, some 12) := by
  decide

/-! ## Witnesses: for each obligation with hypotheses, a state and operands that meet them -/

/-- A next state that meets a test exists, when the evaluated outcome shows it. -/
theorem exists_next {o : Host.Outcome State Fault Refusal} {p : State → Bool} (h : (nextState o).any p = true) :
    ∃ t, o = .next t ∧ p t = true := by
  cases o with
  | next s => exact ⟨s, rfl, h⟩
  | fault f => cases h
  | refused x => cases h

/-! ### Encoding -/

theorem witness_DecodeOfEncode : Cfg.default.wf = true ∧ (Instr.attrExt 0x10).wf Cfg.default = true ∧
    (Instr.peerV4As2 0xFC).wf Cfg.default = true ∧ (Instr.ospf2 0xFFFF).wf Cfg.default = true := by decide

theorem witness_EncodeOfDecode :
    decode Cfg.default .frame [0x00, 0x0B, 0xFF, 0xFF, 0x07] = .ok (.ospf2 0xFFFF, [0x07]) := by rfl

theorem witness_DispatchRowsAreDisjoint : Cfg.default.wf = true := by decide

/-- The ends of the sub-range, just outside them, and another type. -/
theorem witness_AddPathIsTheSubRange : Cfg.default.wf = true ∧
    dispatchClass Cfg.default 13 8 = some .td2RibV4uAp ∧ dispatchClass Cfg.default 13 12 = some .td2RibgAp ∧
    dispatchClass Cfg.default 13 6 = some .td2Ribg ∧ dispatchClass Cfg.default 11 8 = some .ospf2 ∧
    Cfg.default.apLo ≤ 8 ∧ (12 : Half) ≤ Cfg.default.apHi := by decide

/-! ### A step runs the decoded instruction -/

/-- The frame the next witnesses decode. -/
def isisFrame : State :=
  frameState 32 7 false [0x83, 0x1B]

theorem witness_StepRunsTheFrame :
    isisFrame.calls = [] ∧ isisFrame.busy = true ∧ isisFrame.fsm = .dispatching ∧ isisFrame.focus = .frame ∧
    isisFrame.typ = some 32 ∧ isisFrame.subtyp = some 7 ∧ HeaderWhole isisFrame ∧
    decode isisFrame.cfg .frame (toBe 2 (32 : Half).toNat ++ toBe 2 (7 : Half).toNat ++ [0xAA]) =
      .ok (.isis 7, [0xAA]) := by
  refine ⟨rfl, rfl, rfl, rfl, rfl, rfl, fun h => absurd h (by decide), rfl⟩

/-- The variant with `LEN` 4, the smallest that is whole. -/
def wholeFrame : State :=
  { frameState 17 0 true [0, 0, 0, 9] with cfg := { Cfg.default with lenCountsUs := true } }

theorem witness_HeaderWhole_variant : wholeFrame.cfg.lenCountsUs = true ∧ HeaderWhole wholeFrame :=
  ⟨rfl, fun _ => ⟨true, 4, rfl, rfl, rfl⟩⟩

/-- A PeerEntry's flags byte as the last byte before the limit. -/
def peerByte : State :=
  { cursorState [0x02] with focus := .peer }

/-- A prefix's length byte as the last byte before the limit. -/
def nlriByte : State :=
  { cursorState [0x00] with focus := .nlri }

theorem witness_StepRunsTheElement_peer :
    peerByte.calls = [] ∧ peerByte.busy = true ∧ peerByte.fsm = .dispatching ∧ peerByte.fb.read 12 = some 0x02 ∧
    decode peerByte.cfg peerByte.focus [0x02] = .ok (.peerV4As4 2, []) ∧ peerByte.focus = .peer ∧
    peerByte.cur = some 12 ∧ peerByte.lim = some 13 ∧ 12 < 13 := by
  refine ⟨rfl, rfl, rfl, rfl, rfl, rfl, rfl, rfl, by decide⟩

theorem witness_StepRunsTheElement_nlri :
    nlriByte.calls = [] ∧ nlriByte.busy = true ∧ nlriByte.fsm = .dispatching ∧ nlriByte.fb.read 12 = some 0x00 ∧
    decode nlriByte.cfg nlriByte.focus [0x00] = .ok (.nlri 0, []) ∧ nlriByte.focus = .nlri ∧
    nlriByte.cur = some 12 ∧ nlriByte.lim = some 13 ∧ 12 < 13 := by
  refine ⟨rfl, rfl, rfl, rfl, rfl, rfl, rfl, rfl, by decide⟩

/-- A window of exactly three bytes. -/
theorem witness_StepRunsTheElement_attr :
    (windowState [0x40, 1, 0]).calls = [] ∧ (windowState [0x40, 1, 0]).busy = true ∧
    (windowState [0x40, 1, 0]).fsm = .dispatching ∧ (windowState [0x40, 1, 0]).fb.read 12 = some 0x40 ∧
    decode (windowState [0x40, 1, 0]).cfg (windowState [0x40, 1, 0]).focus [0x40] = .ok (.attrShort 0x40, []) ∧
    (windowState [0x40, 1, 0]).focus = .attr ∧ (windowState [0x40, 1, 0]).atCur = some 12 ∧
    (windowState [0x40, 1, 0]).atLim = some 15 ∧ 12 + 3 ≤ 15 := by
  refine ⟨rfl, rfl, rfl, rfl, rfl, rfl, rfl, rfl, by decide⟩

/-- A PeerEntry and a prefix at the limit. -/
theorem witness_StepRunsTheElement_limit :
    ({ cursorState [] with focus := .peer }.focus = .peer ∧ { cursorState [] with focus := .nlri }.focus = .nlri) ∧
    (cursorState []).calls = [] ∧ (cursorState []).busy = true ∧ (cursorState []).fsm = .dispatching ∧
    (cursorState []).cur = some 12 ∧ (cursorState []).lim = some 12 ∧ 12 ≤ 12 := by
  decide

/-- An attribute at the end of its window, and with 1 and 2 bytes left. -/
theorem witness_StepRunsTheElement_window :
    ((windowState []).calls = [] ∧ (windowState []).busy = true ∧ (windowState []).fsm = .dispatching ∧
      (windowState []).focus = .attr ∧ (windowState []).atCur = some 12 ∧ (windowState []).atLim = some 12 ∧ 12 ≤ 12) ∧
    ((windowState [0x40]).atCur = some 12 ∧ (windowState [0x40]).atLim = some 13 ∧ 12 < 13 ∧ 13 < 12 + 3) ∧
    ((windowState [0x40, 1]).atCur = some 12 ∧ (windowState [0x40, 1]).atLim = some 14 ∧ 12 < 14 ∧ 14 < 12 + 3) := by
  decide

theorem witness_UnknownPairIsUnsupported :
    (frameState 13 7 false []).calls = [] ∧ (frameState 13 7 false []).busy = true ∧
    (frameState 13 7 false []).fsm = .dispatching ∧ (frameState 13 7 false []).focus = .frame ∧
    (frameState 13 7 false []).typ = some 13 ∧ (frameState 13 7 false []).subtyp = some 7 ∧
    HeaderWhole (frameState 13 7 false []) ∧ dispatchClass (frameState 13 7 false []).cfg 13 7 = none := by
  refine ⟨rfl, rfl, rfl, rfl, rfl, rfl, fun h => absurd h (by decide), rfl⟩

/-- 41 R104 reads `TYPE` and `SUBTYPE` alone before an unsupported pair is rejected: the other header registers need no value. -/
theorem test_unsupported_reads_the_pair_alone :
    let s : State := { frameState 13 7 false [] with et := none, len := none, hlen := none }
    step s = .next (abort .unsupportedRecord s) := by
  rfl

/-- The variant with `LEN` 3, the largest that is cut. -/
def cutFrame : State :=
  { frameState 17 0 true [1, 2, 3] with cfg := { Cfg.default with lenCountsUs := true } }

theorem witness_CutMicrosecondsAreTruncated :
    cutFrame.calls = [] ∧ cutFrame.busy = true ∧ cutFrame.fsm = .dispatching ∧ cutFrame.focus = .frame ∧
    cutFrame.cfg.lenCountsUs = true ∧ cutFrame.et = some true ∧
    cutFrame.len = some 3 ∧ (3 : Word).toNat < 4 := by
  refine ⟨rfl, rfl, rfl, rfl, rfl, rfl, rfl, by decide⟩

/-! ### Reset and the caller -/

theorem witness_ResetAbandonsTheNext : { isisFrame with calls := [.reset, .hold] }.calls = .reset :: [.hold] := rfl

theorem witness_BusyCallerIsRefused :
    isisFrame.busy = true ∧ { isisFrame with calls := [.next] }.calls = .next :: [] ∧
    { isisFrame with calls := [.read .record] }.calls = .read .record :: [] ∧ CallerReg.record.guarded = true ∧
    { isisFrame with calls := [.read .term] }.calls = .read .term :: [] ∧ CallerReg.term.guarded = false := by
  refine ⟨rfl, rfl, rfl, rfl, rfl, rfl⟩

/-- A stream that ended cut, after the result. -/
def doneState : State :=
  { State.reset with fsm := .done, term := .truncatedInput, res := some .truncatedInput }

theorem witness_NextIsAccepted :
    isisFrame.busy = true ∧ ((idleState [1] .eos).busy = false ∧ (idleState [1] .eos).calls = [] ∧
      (idleState [1] .eos).fsm ≠ .done) ∧ (doneState.busy = false ∧ doneState.calls = [] ∧ doneState.fsm = .done) ∧
    ({ idleState [1] .eos with calls := [.next, .stop] }.busy = false ∧
      { idleState [1] .eos with calls := [.next, .stop] }.calls = .next :: [.stop]) ∧
    { doneState with calls := [.next] }.busy = false ∧ { doneState with calls := [.next] }.calls = .next :: [] := by
  decide

/-! ### The stream reader -/

theorem witness_HeaderIsAwaited_clauses :
    ((headerState (zeros 12) .eos).calls = [] ∧ (headerState (zeros 12) .eos).busy = true ∧
      (headerState (zeros 12) .eos).fsm = .awaitingHeader ∧ 12 ≤ (headerState (zeros 12) .eos).cfg.fbCap ∧
      12 ≤ (headerState (zeros 12) .eos).src.length) ∧
    ((headerState (zeros 11) (.ioerr 7)).src.length < 12 ∧ (headerState (zeros 11) (.ioerr 7)).srcEnd = .ioerr 7) ∧
    ((headerState [] (.ioerr 7)).src.length < 12 ∧ (headerState [] (.ioerr 7)).srcEnd = .ioerr 7) ∧
    ((headerState [] .eos).src = [] ∧ (headerState [] .eos).srcEnd = .eos) ∧
    (0 < (headerState [9] .eos).src.length ∧ (headerState [9] .eos).src.length < 12) ∧
    (0 < (headerState (zeros 11) .eos).src.length ∧ (headerState (zeros 11) .eos).src.length < 12) := by
  decide

/-- Twelve bytes in `FB`, all ones. -/
def onesHeader : State :=
  { headerState [] .eos with
    fsm := .haveHeader, fb := Memory.cells 0 (encodeHeader 0xFFFFFFFF 0xFFFF 0xFFFF 0xFFFFFFFF) }

theorem witness_HeaderIsDecoded :
    onesHeader.calls = [] ∧ onesHeader.busy = true ∧ onesHeader.fsm = .haveHeader ∧
    onesHeader.fb.readRun 0 12 = some (encodeHeader 0xFFFFFFFF 0xFFFF 0xFFFF 0xFFFFFFFF) := by
  decide

/-- An extended frame with an empty body, the microsecond bytes followed by a further byte. -/
theorem witness_BodyIsTaken :
    (bodyState 17 true 0 [0, 0, 0, 1, 9] .eos).calls = [] ∧ (bodyState 17 true 0 [0, 0, 0, 1, 9] .eos).busy = true ∧
    (bodyState 17 true 0 [0, 0, 0, 1, 9] .eos).fsm = .awaitingBody ∧
    16 + (2 ^ 32 - 1) ≤ (bodyState 17 true 0 [0, 0, 0, 1, 9] .eos).cfg.fbCap ∧
    (bodyState 17 true 0 [0, 0, 0, 1, 9] .eos).tsSec = some 1600000010 ∧
    (bodyState 17 true 0 [0, 0, 0, 1, 9] .eos).et = some true ∧
    (bodyState 17 true 0 [0, 0, 0, 1, 9] .eos).len = some 0 ∧
    ([0, 0, 0, 1] : Run).length =
      (if true && !(bodyState 17 true 0 [0, 0, 0, 1, 9] .eos).cfg.lenCountsUs then 4 else 0) + (0 : Word).toNat ∧
    ([0, 0, 0, 1] : Run) = (bodyState 17 true 0 [0, 0, 0, 1, 9] .eos).src.take ([0, 0, 0, 1] : Run).length := by
  decide

/-- A plain frame with an empty body: nothing is needed. -/
theorem witness_BodyIsTaken_empty :
    (bodyState 13 false 0 [] .eos).et = some false ∧ (bodyState 13 false 0 [] .eos).len = some 0 ∧
    ([] : Run).length =
      (if false && !(bodyState 13 false 0 [] .eos).cfg.lenCountsUs then 4 else 0) + (0 : Word).toNat ∧
    ([] : Run) = (bodyState 13 false 0 [] .eos).src.take 0 := by
  decide

/-- The variant in which `LEN` counts the microsecond field. -/
def counted (s : State) : State :=
  { s with cfg := { s.cfg with lenCountsUs := true } }

/-- In the variant, the smallest `LEN` that is whole and the largest that is cut. -/
theorem witness_BodyIsTaken_counted :
    ((counted (bodyState 17 true 4 (zeros 4) .eos)).calls = [] ∧
      (counted (bodyState 17 true 4 (zeros 4) .eos)).busy = true ∧
      (counted (bodyState 17 true 4 (zeros 4) .eos)).fsm = .awaitingBody ∧
      16 + (2 ^ 32 - 1) ≤ (counted (bodyState 17 true 4 (zeros 4) .eos)).cfg.fbCap ∧
      (counted (bodyState 17 true 4 (zeros 4) .eos)).tsSec = some 1600000010 ∧
      (counted (bodyState 17 true 4 (zeros 4) .eos)).et = some true ∧
      (counted (bodyState 17 true 4 (zeros 4) .eos)).len = some 4 ∧
      (counted (bodyState 17 true 4 (zeros 4) .eos)).cfg.lenCountsUs = true ∧ 4 ≤ (4 : Word).toNat ∧
      (zeros 4).length = (if true && !true then 4 else 0) + (4 : Word).toNat ∧
      zeros 4 = (counted (bodyState 17 true 4 (zeros 4) .eos)).src.take (zeros 4).length) ∧
    ((counted (bodyState 17 true 3 (zeros 4) .eos)).len = some 3 ∧ (3 : Word).toNat < 4 ∧
      (zeros 3).length = (if true && !true then 4 else 0) + (3 : Word).toNat ∧
      zeros 3 = (counted (bodyState 17 true 3 (zeros 4) .eos)).src.take (zeros 3).length) := by
  decide

/-- One byte short, by EOS and by failure, under either reading of `LEN`. -/
theorem witness_CutBodyEndsTheStream :
    (bodyState 17 true 2 (zeros 5) .eos).calls = [] ∧ (bodyState 17 true 2 (zeros 5) .eos).busy = true ∧
    (bodyState 17 true 2 (zeros 5) .eos).fsm = .awaitingBody ∧
    (bodyState 17 true 2 (zeros 5) .eos).et = some true ∧ (bodyState 17 true 2 (zeros 5) .eos).len = some 2 ∧
    (bodyState 17 true 2 (zeros 5) .eos).tsUsec = none ∧ (bodyState 17 true 2 (zeros 5) .eos).ts = none ∧
    (bodyState 17 true 2 (zeros 5) .eos).src.length <
      (if true && !(bodyState 17 true 2 (zeros 5) .eos).cfg.lenCountsUs then 4 else 0) + (2 : Word).toNat ∧
    (counted (bodyState 17 true 2 (zeros 1) .eos)).src.length <
      (if true && !(counted (bodyState 17 true 2 (zeros 1) .eos)).cfg.lenCountsUs then 4 else 0) + (2 : Word).toNat ∧
    (bodyState 17 true 2 (zeros 5) .eos).srcEnd = .eos ∧
    (bodyState 17 true 2 (zeros 5) (.ioerr 7)).srcEnd = .ioerr 7 ∧
    (bodyState 17 true 2 (zeros 5) (.ioerr 7)).srcEnd ≠ .silent := by
  decide

theorem witness_SilentSupplierSuspends :
    ((headerState (zeros 11) .silent).calls = [] ∧ (headerState (zeros 11) .silent).busy = true ∧
      (headerState (zeros 11) .silent).srcEnd = .silent ∧ (headerState (zeros 11) .silent).fsm = .awaitingHeader ∧
      (headerState (zeros 11) .silent).src.length < 12) ∧
    ((bodyState 13 false 1 [] .silent).fsm = .awaitingBody ∧ (bodyState 13 false 1 [] .silent).et = some false ∧
      (bodyState 13 false 1 [] .silent).len = some 1 ∧
      (bodyState 13 false 1 [] .silent).src.length < bodyNeed (bodyState 13 false 1 [] .silent).cfg false 1) := by
  decide

/-! ### The invariant: it holds in every state of the stream reader -/

theorem inv_idleState (src : Run) (mark : SrcEnd) : BlockInv (idleState src mark) := by
  simp [BlockInv, NoContext, TermAgrees, IdleAgrees, HeaderNone, idleState, State.reset, Cfg.default, Memory.wf]

theorem inv_headerState (src : Run) (mark : SrcEnd) : BlockInv (headerState src mark) := by
  simp [BlockInv, NoContext, TermAgrees, BusyAgrees, HeaderNone, headerState, idleState, State.reset, Cfg.default,
    Memory.wf]

theorem inv_doneState : BlockInv doneState := by
  simp [BlockInv, NoContext, TermAgrees, IdleAgrees, HeaderNone, doneState, State.reset, Cfg.default, Term.replay,
    Memory.wf]

theorem inv_onesHeader : BlockInv onesHeader := by
  refine ⟨by decide, by decide, by unfold NoContext; decide, by unfold TermAgrees; decide, (nomatch ·), fun _ => ⟨rfl, ?_⟩⟩
  exact ⟨by unfold Covers; decide, by unfold HeaderNone; decide⟩

theorem inv_bodyState_whole : BlockInv (bodyState 17 true 2 (zeros 6) .eos) := by
  refine ⟨by decide, by decide, by unfold NoContext; decide, by unfold TermAgrees; decide, (nomatch ·), fun _ => ⟨rfl, ?_⟩⟩
  exact ⟨by unfold Covers; decide, by unfold HeaderRead; decide, rfl, rfl⟩

theorem inv_bodyState (mark : SrcEnd) : BlockInv (bodyState 17 true 2 (zeros 5) mark) :=
  have h := inv_bodyState_whole
  ⟨h.1, h.2.1, h.2.2.1, h.2.2.2.1, (nomatch ·), fun _ => h.2.2.2.2.2 rfl⟩

theorem inv_isisFrame : BlockInv isisFrame := by
  refine ⟨by decide, by decide, by unfold NoContext; decide, by unfold TermAgrees; decide, (nomatch ·), fun _ => ⟨rfl, ?_⟩⟩
  exact ⟨by unfold Covers; decide, by unfold HeaderRead; decide, rfl, rfl⟩

/-- Some next state. -/
def goesOn : State → Bool := fun _ => true

/-- Every clause of the table at its boundary: an idle block; 12, 11, 1 and 0 bytes with each mark; a whole header; a whole
body and one a byte short with each mark; a frame. -/
theorem witness_TransitionsAreTheTable :
    (BlockInv (idleState [] .eos) ∧ ∃ t, step (idleState [] .eos) = .next t ∧ goesOn t = true) ∧
    (BlockInv (headerState (zeros 12) .eos) ∧ ∃ t, step (headerState (zeros 12) .eos) = .next t ∧ goesOn t = true) ∧
    (BlockInv (headerState [] .eos) ∧ ∃ t, step (headerState [] .eos) = .next t ∧ goesOn t = true) ∧
    (BlockInv (headerState [1] .eos) ∧ ∃ t, step (headerState [1] .eos) = .next t ∧ goesOn t = true) ∧
    (BlockInv (headerState (zeros 11) (.ioerr 7)) ∧
      ∃ t, step (headerState (zeros 11) (.ioerr 7)) = .next t ∧ goesOn t = true) ∧
    (BlockInv (headerState (zeros 11) .silent) ∧
      ∃ t, step (headerState (zeros 11) .silent) = .next t ∧ goesOn t = true) ∧
    (BlockInv onesHeader ∧ ∃ t, step onesHeader = .next t ∧ goesOn t = true) ∧
    (BlockInv (bodyState 17 true 2 (zeros 6) .eos) ∧
      ∃ t, step (bodyState 17 true 2 (zeros 6) .eos) = .next t ∧ goesOn t = true) ∧
    (BlockInv (bodyState 17 true 2 (zeros 5) .eos) ∧
      ∃ t, step (bodyState 17 true 2 (zeros 5) .eos) = .next t ∧ goesOn t = true) ∧
    (BlockInv (bodyState 17 true 2 (zeros 5) (.ioerr 7)) ∧
      ∃ t, step (bodyState 17 true 2 (zeros 5) (.ioerr 7)) = .next t ∧ goesOn t = true) ∧
    (BlockInv (bodyState 17 true 2 (zeros 5) .silent) ∧
      ∃ t, step (bodyState 17 true 2 (zeros 5) .silent) = .next t ∧ goesOn t = true) ∧
    (BlockInv isisFrame ∧ ∃ t, step isisFrame = .next t ∧ goesOn t = true) := by
  refine ⟨⟨inv_idleState _ _, exists_next (by decide)⟩, ⟨inv_headerState _ _, exists_next (by decide)⟩,
    ⟨inv_headerState _ _, exists_next (by decide)⟩, ⟨inv_headerState _ _, exists_next (by decide)⟩,
    ⟨inv_headerState _ _, exists_next (by decide)⟩, ⟨inv_headerState _ _, exists_next (by decide)⟩,
    ⟨inv_onesHeader, exists_next (by decide)⟩, ⟨inv_bodyState_whole, exists_next (by decide)⟩,
    ⟨inv_bodyState _, exists_next (by decide)⟩, ⟨inv_bodyState _, exists_next (by decide)⟩,
    ⟨inv_bodyState _, exists_next (by decide)⟩, ⟨inv_isisFrame, exists_next (by decide)⟩⟩

theorem witness_StepKeepsInv : BlockInv isisFrame ∧ ∃ t, step isisFrame = .next t ∧ goesOn t = true :=
  ⟨inv_isisFrame, exists_next (by decide)⟩

theorem witness_InvIsSafe : BlockInv isisFrame := inv_isisFrame

/-- A state whose caller keeps the rule, and the same with a second `NEXT`, which is refused. -/
theorem witness_RefusedOnlyForTheCaller : BlockInv isisFrame ∧ BlockInv { isisFrame with calls := [.next] } ∧
    CallerErrs { isisFrame with calls := [.next] } :=
  ⟨inv_isisFrame, inv_isisFrame, rfl, .inl rfl⟩

/-! ### Whole NEXTs -/

/-- Two frames: one of no known type, then an IS-IS frame. -/
def twoFrames : List WireFrame :=
  [⟨1, 99, 0, 0, [0xDE]⟩, ⟨2, 33, 0, 5, [0x83]⟩]

/-- A block idle on those frames. -/
def onTwoFrames : State :=
  idleState (twoFrames.flatMap (WireFrame.bytes Cfg.default)) .eos

theorem idle_idleState (src : Run) (mark : SrcEnd) : Idle (idleState src mark) := by
  simp [Idle, idleState, State.reset, Cfg.default]

theorem witness_NextIsTheFunction : (Idle onTwoFrames ∧ onTwoFrames.cfg.lenCountsUs = false) ∧
    Idle (idleState [1] .silent) ∧ (idleState [1] .silent).cfg.lenCountsUs = false :=
  ⟨⟨idle_idleState _ _, rfl⟩, idle_idleState _ _, rfl⟩

/-- In the variant, an extended frame whose `LEN` counts its four microsecond bytes and two more, and one with `LEN` 3. -/
def onCounted (len : Word) (rest : Run) : State :=
  counted (idleState (encodeHeader 1 17 0 len ++ rest) .eos)

theorem idle_onCounted (len : Word) (rest : Run) : Idle (onCounted len rest) := by
  simp [Idle, onCounted, counted, idleState, State.reset, Cfg.default]

/-- In the variant: a whole frame, one with `LEN` 3, one cut after its header. -/
theorem witness_FrameIsDrained_counted :
    (Idle (onCounted 6 (zeros 7)) ∧
      ∃ t, runNext (onCounted 6 (zeros 7)) = .next t ∧ (t.busy = false ∧ t.term = .live ∧ t.src = [0] : Bool) = true) ∧
    (Idle (onCounted 3 (zeros 3)) ∧
      ∃ t, runNext (onCounted 3 (zeros 3)) = .next t ∧
        (t.busy = false ∧ t.term = .live ∧ t.res = some .truncatedInput ∧ t.src = [] : Bool) = true) ∧
    (Idle (onCounted 6 (zeros 5)) ∧
      ∃ t, runNext (onCounted 6 (zeros 5)) = .next t ∧ (t.busy = false ∧ t.term ≠ .live : Bool) = true) :=
  ⟨⟨idle_onCounted _ _, exists_next (by decide +kernel)⟩, ⟨idle_onCounted _ _, exists_next (by decide +kernel)⟩,
    ⟨idle_onCounted _ _, exists_next (by decide +kernel)⟩⟩

/-- A per-frame end, an end in the header, an end in the body. -/
theorem witness_FrameIsDrained :
    (Idle onTwoFrames ∧ ∃ t, runNext onTwoFrames = .next t ∧ (t.busy = false ∧ t.term = .live : Bool) = true) ∧
    (Idle (idleState [1] .eos) ∧
      ∃ t, runNext (idleState [1] .eos) = .next t ∧ (t.busy = false ∧ t.term ≠ .live : Bool) = true) ∧
    (Idle (idleState (encodeHeader 1 32 0 1) .eos) ∧
      ∃ t, runNext (idleState (encodeHeader 1 32 0 1) .eos) = .next t ∧
        (t.busy = false ∧ t.term ≠ .live : Bool) = true) :=
  ⟨⟨idle_idleState _ _, exists_next (by decide +kernel)⟩, ⟨idle_idleState _ _, exists_next (by decide +kernel)⟩,
    ⟨idle_idleState _ _, exists_next (by decide +kernel)⟩⟩

theorem witness_FramesGiveResultsInOrder :
    Idle onTwoFrames ∧ onTwoFrames.cfg.lenCountsUs = false ∧ onTwoFrames.srcEnd = .eos ∧ (∀ f ∈ twoFrames, f.body.length < 2 ^ 32) ∧
    onTwoFrames.src = twoFrames.flatMap (WireFrame.bytes onTwoFrames.cfg) ∧
    twoFrames[0]? = some ⟨1, 99, 0, 0, [0xDE]⟩ ∧ twoFrames[1]? = some ⟨2, 33, 0, 5, [0x83]⟩ :=
  ⟨idle_idleState _ _, rfl, rfl, by decide, rfl, rfl, rfl⟩

theorem witness_EndIsReplayed : doneState.busy = false ∧ doneState.fsm = .done ∧ doneState.calls = [] := by decide

theorem witness_NextDelivers : BlockInv onTwoFrames ∧ onTwoFrames.busy = false ∧ onTwoFrames.calls = [] ∧
    onTwoFrames.srcEnd ≠ .silent :=
  ⟨inv_idleState _ _, rfl, rfl, by decide⟩

/-! ### Frame instructions -/

/-- The 26 bytes of P3's TableDump body, and two bytes more. -/
def tdBody : Run :=
  [0x00, 0x00, 0x00, 0x01, 0xC6, 0x33, 0x64, 0x00, 0x18, 0x01, 0x5F, 0x5E, 0x0F, 0x00, 0xC0, 0x00, 0x02, 0x01, 0xFD,
   0xE8, 0x00, 0x04, 0x40, 0x01, 0x01, 0x00, 0xEE, 0xEE]

theorem witness_TableDumpDecodes : Ready (frameState 12 1 false tdBody) (hdr 12 1 false) tdBody :=
  ⟨rfl, rfl, rfl, _, rfl, rfl, rfl, by decide⟩

/-- In the variant, an extended frame whose body is the last `LEN - 4` bytes; the body of every statement on `Ready`. -/
theorem witness_Ready_counted :
    Ready { counted (frameState 33 0 true [0x83, 0x1B]) with len := some 6 } (hdr 33 0 true) [0x83, 0x1B] ∧
    seen (exec (.isisEt 0) { counted (frameState 33 0 true [0x83, 0x1B]) with len := some 6 }) =
      some (some .record, some (.isis (hdr 33 0 true) [0x83, 0x1B])) :=
  ⟨⟨rfl, rfl, rfl, _, rfl, rfl, rfl, by decide⟩, by decide⟩

theorem witness_PeerIndexTableDecodes :
    Ready (frameState 13 1 false [1, 2, 3, 4, 0, 0, 0, 0]) (hdr 13 1 false) [1, 2, 3, 4, 0, 0, 0, 0] :=
  ⟨rfl, rfl, rfl, _, rfl, rfl, rfl, by decide⟩

theorem witness_RibDecodes :
    Ready (frameState 13 2 false [0, 0, 0, 9, 0, 0, 0]) (hdr 13 2 false) [0, 0, 0, 9, 0, 0, 0] :=
  ⟨rfl, rfl, rfl, _, rfl, rfl, rfl, by decide⟩

theorem witness_RibGenericDecodes :
    Ready (frameState 13 6 false [0, 0, 0, 9, 0, 1, 1, 0, 0, 0]) (hdr 13 6 false) [0, 0, 0, 9, 0, 1, 1, 0, 0, 0] :=
  ⟨rfl, rfl, rfl, _, rfl, rfl, rfl, by decide⟩

theorem witness_StateChangeDecodes : Ready (frameState 17 0 true [0xFD, 0xE8]) (hdr 17 0 true) [0xFD, 0xE8] :=
  ⟨rfl, rfl, rfl, _, rfl, rfl, rfl, by decide⟩

theorem witness_MessageDecodes : Ready (frameState 16 1 false [0xFD, 0xE8]) (hdr 16 1 false) [0xFD, 0xE8] :=
  ⟨rfl, rfl, rfl, _, rfl, rfl, rfl, by decide⟩

/-- Bodies of 8 and 7 bytes. -/
theorem witness_Ospf2Delivers :
    (Ready (frameState 11 0 false (zeros 8)) (hdr 11 0 false) (zeros 8) ∧ 8 ≤ (zeros 8).length) ∧
    (Ready (frameState 11 0 false (zeros 7)) (hdr 11 0 false) (zeros 7) ∧ (zeros 7).length < 8) :=
  ⟨⟨⟨rfl, rfl, rfl, _, rfl, rfl, rfl, by decide⟩, by decide⟩, ⟨rfl, rfl, rfl, _, rfl, rfl, rfl, by decide⟩, by decide⟩

/-- One byte; an unknown selector in two bytes; IPv4 with 9 and 10 bytes; IPv6 with 33 and 34. -/
theorem witness_Ospf3Delivers :
    (Ready (frameState 48 0 false [0]) (hdr 48 0 false) [0] ∧ ([0] : Run).length < 2) ∧
    (Ready (frameState 49 0 true [0, 3]) (hdr 49 0 true) [0, 3] ∧ 2 ≤ ([0, 3] : Run).length ∧
      (3 : Half) = BitVec.ofNat 16 (be (([0, 3] : Run).take 2)) ∧ afWidth Cfg.default 3 = none) ∧
    (Ready (frameState 48 0 false ([0, 1] ++ zeros 7)) (hdr 48 0 false) ([0, 1] ++ zeros 7) ∧
      ([0, 1] ++ zeros 7).length < 2 + 2 * 4 ∧ afWidth Cfg.default 1 = some 4) ∧
    (Ready (frameState 48 0 false ([0, 1] ++ zeros 8)) (hdr 48 0 false) ([0, 1] ++ zeros 8) ∧
      2 + 2 * 4 ≤ ([0, 1] ++ zeros 8).length) ∧
    (Ready (frameState 48 0 false ([0, 2] ++ zeros 31)) (hdr 48 0 false) ([0, 2] ++ zeros 31) ∧
      ([0, 2] ++ zeros 31).length < 2 + 2 * 16 ∧ afWidth Cfg.default 2 = some 16) ∧
    (Ready (frameState 48 0 false ([0, 2] ++ zeros 32)) (hdr 48 0 false) ([0, 2] ++ zeros 32) ∧
      2 + 2 * 16 ≤ ([0, 2] ++ zeros 32).length) := by
  refine ⟨⟨⟨rfl, rfl, rfl, _, rfl, rfl, rfl, by decide⟩, by decide⟩,
    ⟨⟨rfl, rfl, rfl, _, rfl, rfl, rfl, by decide⟩, by decide, by decide, by decide⟩,
    ⟨⟨rfl, rfl, rfl, _, rfl, rfl, rfl, by decide⟩, by decide, by decide⟩,
    ⟨⟨rfl, rfl, rfl, _, rfl, rfl, rfl, by decide⟩, by decide⟩,
    ⟨⟨rfl, rfl, rfl, _, rfl, rfl, rfl, by decide⟩, by decide, by decide⟩,
    ⟨⟨rfl, rfl, rfl, _, rfl, rfl, rfl, by decide⟩, by decide⟩⟩

theorem witness_IsisDelivers : Ready isisFrame (hdr 32 7 false) [0x83, 0x1B] :=
  ⟨rfl, rfl, rfl, _, rfl, rfl, rfl, by decide⟩

theorem witness_FrameInstructionFrame : (Instr.isis 7).recordClass = some .isis ∧
    ∃ t, exec (.isis 7) isisFrame = .next t ∧ goesOn t = true :=
  ⟨rfl, exists_next (by decide)⟩

/-- A second state that agrees on the frame and differs in the stream, the position and what the last frame left. -/
def otherIsisFrame : State :=
  { isisFrame with src := [1], spos := 99, iocode := some 3, asw := some 2, atCur := some 5, res := some .record }

theorem witness_ResultDependsOnTheFrameAlone :
    (Instr.isis 7).recordClass = some .isis ∧ isisFrame.cfg = otherIsisFrame.cfg ∧
    isisFrame.fb = otherIsisFrame.fb ∧ isisFrame.ts = otherIsisFrame.ts ∧ isisFrame.typ = otherIsisFrame.typ ∧
    isisFrame.subtyp = otherIsisFrame.subtyp ∧ isisFrame.len = otherIsisFrame.len ∧
    isisFrame.et = otherIsisFrame.et ∧ isisFrame.hlen = otherIsisFrame.hlen ∧ isisFrame ≠ otherIsisFrame ∧
    ∃ t, exec (.isis 7) isisFrame = .next t ∧ goesOn t = true :=
  ⟨rfl, rfl, rfl, rfl, rfl, rfl, rfl, rfl, rfl, by decide, exists_next (by decide)⟩

/-! ### Layouts -/

/-- The Record of P3, frame 2. -/
def tdRecord : Record :=
  .tableDump (hdr 12 1 false) 0 1 [0xC6, 0x33, 0x64, 0x00] 24 1 1599999744 [0xC0, 0x00, 0x02, 0x01] (.as2 65000)
    [⟨0x40, 1, 1, [0x00], 2⟩]

theorem witness_TableDumpLayout :
    Instr.tdV4.recordClass = some .tdV4 ∧ tdRecord.fits Cfg.default .tdV4 (hdr 12 1 false) ∧
    tdRecord.wire Cfg.default ++ [0xEE, 0xEE] = tdBody ∧ Ready (frameState 12 1 false tdBody) (hdr 12 1 false) tdBody := by
  refine ⟨rfl, ⟨rfl, .inl rfl, rfl, rfl, rfl, ?_, by decide⟩, by decide, witness_TableDumpDecodes⟩
  intro a ha
  obtain rfl := List.mem_singleton.mp ha
  exact ⟨rfl, rfl, by decide⟩

/-- One peer, one name byte. -/
def pitRecord : Record :=
  .peerIndexTable (hdr 13 1 false) 0x0A000001 [0x72] [⟨0xF2, 9, [0xC0, 0x00, 0x02, 0x01], .as4 123456⟩]

theorem witness_PeerIndexTableLayout :
    pitRecord.fits Cfg.default .td2Pit (hdr 13 1 false) ∧
    Ready (frameState 13 1 false (pitRecord.wire Cfg.default ++ [0xEE])) (hdr 13 1 false)
      (pitRecord.wire Cfg.default ++ [0xEE]) := by
  refine ⟨⟨rfl, rfl, by decide, by decide, ?_⟩, rfl, rfl, rfl, _, rfl, rfl, by decide, by decide⟩
  intro e he
  obtain rfl := List.mem_singleton.mp he
  exact ⟨rfl, rfl⟩

/-- A prefix of 20 bits and one entry, with a path identifier or without. -/
def ribRecord (sub : Half) (pid : Option Word) : Record :=
  .rib (hdr 13 sub false) 9 ⟨[0x0A, 0x4F, 0xF0, 0x00], 20⟩ [⟨1, 2, pid, [⟨0x50, 2, 1, [0xAA], 4⟩]⟩]

theorem prefix_fits : Prefix.fits 4 ⟨[0x0A, 0x4F, 0xF0, 0x00], 20⟩ :=
  ⟨rfl, by decide, by unfold Prefix.clean; decide⟩

theorem entry_fits (pid : Option Word) :
    RIBEntry.fits Cfg.default pid.isSome ⟨1, 2, pid, [⟨0x50, 2, 1, [0xAA], 4⟩]⟩ := by
  refine ⟨rfl, ?_, show 5 < 65536 by decide⟩
  intro a ha
  obtain rfl := List.mem_singleton.mp ha
  exact ⟨rfl, rfl, by decide⟩

theorem witness_RibLayout :
    ((ribRecord 2 none).fits Cfg.default .td2RibV4u (hdr 13 2 false) ∧
      Ready (frameState 13 2 false ((ribRecord 2 none).wire Cfg.default ++ [0xEE])) (hdr 13 2 false)
        ((ribRecord 2 none).wire Cfg.default ++ [0xEE])) ∧
    ((ribRecord 8 (some 0)).fits Cfg.default .td2RibV4uAp (hdr 13 8 false) ∧
      Ready (frameState 13 8 false ((ribRecord 8 (some 0)).wire Cfg.default ++ [])) (hdr 13 8 false)
        ((ribRecord 8 (some 0)).wire Cfg.default ++ [])) := by
  refine ⟨⟨⟨rfl, by decide, rfl, prefix_fits, by decide, ?_⟩, rfl, rfl, rfl, _, rfl, rfl, by decide, by decide⟩,
    ⟨rfl, by decide, rfl, prefix_fits, by decide, ?_⟩, rfl, rfl, rfl, _, rfl, rfl, by decide, by decide⟩
  · intro e he
    obtain rfl := List.mem_singleton.mp he
    exact entry_fits none
  · intro e he
    obtain rfl := List.mem_singleton.mp he
    exact entry_fits (some 0)

/-- A generic RIB record of IPv4. -/
def ribgRecord : Record :=
  .ribGeneric (hdr 13 6 false) 9 1 255 ⟨[0x0A, 0x4F, 0xF0, 0x00], 20⟩ [⟨1, 2, none, [⟨0x50, 2, 1, [0xAA], 4⟩]⟩]

theorem witness_RibGenericLayout :
    Instr.td2Ribg.recordClass = some .td2Ribg ∧ ribgRecord.fits Cfg.default .td2Ribg (hdr 13 6 false) ∧
    Ready (frameState 13 6 false (ribgRecord.wire Cfg.default ++ [0xEE])) (hdr 13 6 false)
      (ribgRecord.wire Cfg.default ++ [0xEE]) := by
  refine ⟨rfl, ⟨rfl, .inl rfl, rfl, prefix_fits, by decide, ?_⟩, rfl, rfl, rfl, _, rfl, rfl, by decide, by decide⟩
  intro e he
  obtain rfl := List.mem_singleton.mp he
  exact entry_fits none

/-- A BGP4MP head of 4-byte AS numbers and IPv4 addresses. -/
def head4 : B4Head :=
  ⟨.as4 65000, .as4 123456, 0, 1, [0xC0, 0x00, 0x02, 0x01], [0xC0, 0x00, 0x02, 0x02]⟩

theorem head4_fits : head4.fits Cfg.default 4 :=
  ⟨rfl, rfl, rfl, rfl⟩

theorem witness_StateChangeLayout :
    Instr.b4Sc4Et.recordClass = some .b4Sc4 ∧
    (Record.stateChange (hdr 17 5 true) head4 3 6).fits Cfg.default .b4Sc4 (hdr 17 5 true) ∧
    Ready (frameState 17 5 true ((Record.stateChange (hdr 17 5 true) head4 3 6).wire Cfg.default ++ [0xEE]))
      (hdr 17 5 true) ((Record.stateChange (hdr 17 5 true) head4 3 6).wire Cfg.default ++ [0xEE]) :=
  ⟨rfl, ⟨rfl, .inr ⟨rfl, head4_fits⟩⟩, rfl, rfl, rfl, _, rfl, rfl, by decide, by decide⟩

theorem witness_MessageLayout :
    Instr.b4Msg4.recordClass = some .b4Msg4 ∧ head4.fits Cfg.default 4 ∧
    Ready (frameState 16 4 false (head4.wire ++ [0x13, 0x04])) (hdr 16 4 false) (head4.wire ++ [0x13, 0x04]) ∧
    Ready (frameState 16 4 false (head4.wire ++ [])) (hdr 16 4 false) (head4.wire ++ []) :=
  ⟨rfl, head4_fits, ⟨rfl, rfl, rfl, _, rfl, rfl, by decide, by decide⟩, rfl, rfl, rfl, _, rfl, rfl, by decide, by decide⟩

/-! ### Elements and units -/

/-- An entry of each form. -/
def entry (flags : Byte) (aw : Nat) (asn : ASNumber) : PeerEntry :=
  ⟨flags, 9, zeros aw, asn⟩

theorem witness_PeerEntryIsTaken :
    AtCursor (cursorState (entry 0xFC 4 (.as2 1)).wire) 12 (entry 0xFC 4 (.as2 1)).wire ∧
    AtCursor (cursorState (entry 1 16 (.as2 1)).wire) 12 (entry 1 16 (.as2 1)).wire ∧
    AtCursor (cursorState (entry 2 4 (.as4 1)).wire) 12 (entry 2 4 (.as4 1)).wire ∧
    AtCursor (cursorState ((entry 3 16 (.as4 1)).wire ++ [7])) 12 (entry 3 16 (.as4 1)).wire ∧
    (entry 3 16 (.as4 1)).addr.length = 16 ∧ (entry 3 16 (.as4 1)).asn.width = 4 :=
  ⟨⟨rfl, by decide, 23, rfl, by decide⟩, ⟨rfl, by decide, 35, rfl, by decide⟩, ⟨rfl, by decide, 25, rfl, by decide⟩,
    ⟨rfl, by decide, 38, rfl, by decide⟩, rfl, rfl⟩

theorem left_cursorState (n : Nat) (h : n ≤ 40) : LeftAtCursor (cursorState (zeros n)) 12 (zeros n) := by
  refine ⟨rfl, rfl, ?_⟩
  interval_cases n <;> rfl

/-- Each form one byte short, and nothing left at all. -/
theorem witness_CutPeerEntryIsTruncated :
    (LeftAtCursor (cursorState (zeros 10)) 12 (zeros 10) ∧ (zeros 10).length < 11) ∧
    (LeftAtCursor (cursorState (zeros 22)) 12 (zeros 22) ∧ (zeros 22).length < 23) ∧
    (LeftAtCursor (cursorState (zeros 12)) 12 (zeros 12) ∧ (zeros 12).length < 13) ∧
    (LeftAtCursor (cursorState (zeros 24)) 12 (zeros 24) ∧ (zeros 24).length < 25) ∧
    LeftAtCursor (cursorState (zeros 0)) 12 (zeros 0) :=
  ⟨⟨left_cursorState 10 (by decide), by decide⟩, ⟨left_cursorState 22 (by decide), by decide⟩,
    ⟨left_cursorState 12 (by decide), by decide⟩, ⟨left_cursorState 24 (by decide), by decide⟩,
    left_cursorState 0 (by decide)⟩

/-- A short attribute with an empty value, an extended one with one byte and more after it. -/
theorem witness_AttributeIsTaken :
    AtWindow (windowState [0x40, 1, 0]) 12 4 ([0x40, 1] ++ toBe 1 (0 : Half).toNat ++ [] ++ []) ∧
    ([] : Run).length = (0 : Half).toNat ∧ (0 : Half).toNat < 256 ∧
    AtWindow (windowState [0x50, 2, 0, 1, 0xAA, 0xEE]) 12 4 ([0x50, 2] ++ toBe 2 (1 : Half).toNat ++ [0xAA] ++ [0xEE]) ∧
    ([0xAA] : Run).length = (1 : Half).toNat :=
  ⟨⟨rfl, rfl, rfl, by decide⟩, rfl, by decide, ⟨rfl, rfl, rfl, by decide⟩, rfl⟩

/-- Two bytes; a value one byte short; three bytes of an extended header; its value one byte short. -/
theorem witness_UnfitAttributeIsMalformed :
    (AtWindow (windowState [0x40, 1]) 12 4 [0x40, 1] ∧ ([0x40, 1] : Run).length < 3) ∧
    (AtWindow (windowState [0x40, 1, 1]) 12 4 [0x40, 1, 1] ∧
      ([0x40, 1, 1] : Run).length < 3 + be ((([0x40, 1, 1] : Run).drop 2).take 1)) ∧
    (AtWindow (windowState [0x50, 1, 0]) 12 4 [0x50, 1, 0] ∧ ([0x50, 1, 0] : Run).length < 4) ∧
    (AtWindow (windowState [0x50, 1, 0, 1]) 12 4 [0x50, 1, 0, 1] ∧
      ([0x50, 1, 0, 1] : Run).length < 4 + be ((([0x50, 1, 0, 1] : Run).drop 2).take 2)) :=
  ⟨⟨⟨rfl, rfl, rfl, by decide⟩, by decide⟩, ⟨⟨rfl, rfl, rfl, by decide⟩, by decide⟩,
    ⟨⟨rfl, rfl, rfl, by decide⟩, by decide⟩, ⟨rfl, rfl, rfl, by decide⟩, by decide⟩

theorem witness_WindowGivesItsAttributes :
    (∀ a ∈ [(⟨0x40, 1, 0, [], 4⟩ : Attr)], a.fits Cfg.default 4) ∧
    LeftAtCursor (cursorState [0x40, 1, 0, 0xEE]) 12
      ([(⟨0x40, 1, 0, [], 4⟩ : Attr)].flatMap (Attr.wire Cfg.default) ++ [0xEE]) := by
  refine ⟨?_, rfl, rfl, by decide⟩
  intro a ha
  obtain rfl := List.mem_singleton.mp ha
  exact ⟨rfl, rfl, by decide⟩

/-- A window of exactly three bytes is walked; one a byte longer than the body does not fit. -/
theorem witness_WindowIsBounded :
    (given (attrs 3 4 (cursorState [0x40, 1, 0]))).1 = .inl (some [⟨0x40, 1, 0, [], 4⟩]) ∧
    (cursorState [0x40, 1, 0]).cur = some 12 ∧ (cursorState [0x40, 1, 0]).lim = some 15 ∧ 15 < 12 + 4 := by
  decide

/-- Lengths 0, 20 with stray bits in the last byte, and 32. -/
theorem witness_PrefixIsTaken :
    ((cursorState [0]).cfg.nlriMaskTail = true ∧ (cursorState [0]).afw = some 4 ∧ (0 : Byte).toNat ≤ 8 * 4 ∧
      ([] : Run).length = ceil8 (0 : Byte).toNat ∧ Prefix.fits 4 ⟨zeros 4, 0⟩ ∧ AtCursor (cursorState [0]) 12 [0]) ∧
    (Prefix.fits 4 ⟨[0x0A, 0x4F, 0xF0, 0x00], 20⟩ ∧ ([0x0A, 0x4F, 0xFF] : Run).length = ceil8 (20 : Byte).toNat ∧
      (∀ k < 20, bitAt [0x0A, 0x4F, 0xFF] k = bitAt [0x0A, 0x4F, 0xF0, 0x00] k) ∧
      AtCursor (cursorState [20, 0x0A, 0x4F, 0xFF]) 12 [20, 0x0A, 0x4F, 0xFF]) ∧
    (Prefix.fits 4 ⟨[1, 2, 3, 4], 32⟩ ∧ AtCursor (cursorState [32, 1, 2, 3, 4]) 12 [32, 1, 2, 3, 4]) :=
  ⟨⟨rfl, rfl, by decide, rfl, ⟨rfl, by decide, by unfold Prefix.clean; decide⟩, rfl, by decide, 13, rfl, by decide⟩,
    ⟨prefix_fits, rfl, by decide, rfl, by decide, 16, rfl, by decide⟩,
    ⟨rfl, by decide, by unfold Prefix.clean; decide⟩, rfl, by decide, 17, rfl, by decide⟩

/-- The same 20 bits where the tail is not masked. -/
def unmasked : State :=
  { cursorState [20, 0x0A, 0x4F, 0xFF] with cfg := { Cfg.default with nlriMaskTail := false } }

theorem witness_PrefixIsTaken_unmasked :
    unmasked.cfg.nlriMaskTail = false ∧ unmasked.afw = some 4 ∧ (20 : Byte).toNat ≤ 8 * 4 ∧
    ([0x0A, 0x4F, 0xFF] : Run).length = ceil8 (20 : Byte).toNat ∧ AtCursor unmasked 12 [20, 0x0A, 0x4F, 0xFF] :=
  ⟨rfl, rfl, by decide, rfl, rfl, by decide, 16, rfl, by decide⟩

/-- No byte left; length 33 at width 4; length 32 with three bytes. -/
theorem witness_BadPrefixEndsTheFrame :
    LeftAtCursor (cursorState []) 12 [] ∧
    ((cursorState [33]).afw = some 4 ∧ LeftAtCursor (cursorState [33]) 12 [33] ∧ 8 * 4 < (33 : Byte).toNat) ∧
    (LeftAtCursor (cursorState [32, 1, 2, 3]) 12 [32, 1, 2, 3] ∧ (32 : Byte).toNat ≤ 8 * 4 ∧
      ([1, 2, 3] : Run).length < ceil8 (32 : Byte).toNat) :=
  ⟨⟨rfl, rfl, by decide⟩, ⟨rfl, ⟨rfl, rfl, by decide⟩, by decide⟩, ⟨rfl, rfl, by decide⟩, by decide, by decide⟩

theorem witness_PrefixIsAlwaysClean :
    (cursorState [7, 0xFF]).cfg.nlriMaskTail = true ∧
    given (nlri 4 (cursorState [7, 0xFF])) = (.inl (some ⟨[0xFE, 0, 0, 0], 7⟩), some 14) := by
  decide

/-- Each width with exactly its bytes left, and with one byte fewer. -/
theorem witness_CursorReadsBigEndian :
    ((cursorState [1]).cur = some 12 ∧ (cursorState [1]).lim = some 13 ∧
      (cursorState [1]).fb.readRun 12 1 = some (toBe 1 (1 : Byte).toNat)) ∧
    ((cursorState [0xFD, 0xE8]).lim = some 14 ∧
      (cursorState [0xFD, 0xE8]).fb.readRun 12 2 = some (toBe 2 (65000 : Half).toNat)) ∧
    ((cursorState [0, 1, 0xE2, 0x40]).lim = some 16 ∧
      (cursorState [0, 1, 0xE2, 0x40]).fb.readRun 12 4 = some (toBe 4 (123456 : Word).toNat)) ∧
    ((cursorState [0, 0, 0, 0, 0, 0, 1, 0]).lim = some 20 ∧
      (cursorState [0, 0, 0, 0, 0, 0, 1, 0]).fb.readRun 12 8 = some (toBe 8 (256 : Dword).toNat)) ∧
    ((cursorState []).lim = some 12 ∧ 12 < 12 + 1) ∧ (13 < 12 + 2 ∧ (cursorState [1]).lim = some 13) ∧
    ((cursorState [1, 2, 3]).lim = some 15 ∧ 15 < 12 + 4) ∧ ((cursorState (zeros 7)).lim = some 19 ∧ 19 < 12 + 8) := by
  decide

theorem witness_AsWidthComesFromTheCaller :
    AtCursor (cursorState [0xFD, 0xE8]) 12 (toBe 2 (65000 : Half).toNat) ∧
    AtCursor (cursorState [0, 1, 0xE2, 0x40]) 12 (toBe 4 (123456 : Word).toNat) ∧
    (1 ≠ 0 ∧ 1 ≠ 2 ∧ 1 ≠ 4) ∧ (3 ≠ 0 ∧ 3 ≠ 2 ∧ 3 ≠ 4) ∧
    ((cursorState [1]).cur = some 12 ∧ (cursorState [1]).lim = some 13 ∧ 13 < 12 + 2) ∧
    ((cursorState [1, 2, 3]).lim = some 15 ∧ 15 < 12 + 4) :=
  ⟨⟨rfl, by decide, 14, rfl, by decide⟩, ⟨rfl, by decide, 16, rfl, by decide⟩, by decide, by decide,
    ⟨rfl, rfl, by decide⟩, rfl, by decide⟩

/-- Three bytes left, and none. -/
theorem witness_RestTakesAll :
    LeftAtCursor (cursorState [1, 2, 3]) 12 [1, 2, 3] ∧ LeftAtCursor (cursorState []) 12 [] :=
  ⟨⟨rfl, rfl, by decide⟩, rfl, rfl, by decide⟩

/-! ### The caller -/

/-- Each act, on an idle block and on a busy one. -/
theorem witness_CallerIsServed :
    doneState.busy = false ∧ { doneState with calls := [.read .hlen] }.calls = .read .hlen :: [] ∧
    { doneState with calls := [.hold, .next] }.calls = .hold :: [.next] ∧
    { doneState with calls := [.stop] }.calls = .stop :: [] ∧ isisFrame.busy = true ∧
    { isisFrame with calls := [.hold] }.calls = .hold :: [] ∧
    { isisFrame with calls := [.stop] }.calls = .stop :: [] := by
  decide

/-- A caller that has stopped is still stopped when the `NEXT` in progress is over. -/
theorem test_stop :
    (nextState (step { isisFrame with calls := [.stop] })).any (fun t =>
      t.res = some .record ∧ t.busy = false ∧ t.calls = [.stop] ∧ nextState (step t) = some t) = true := by
  decide

end Sys2Proof.Tests
end

/-! PROOFS. Noninterference of the body sequencers (00_scope R3, 10_state R11): an operation is read as a relation on pairs of
states. The relations are what two states must share before the entry of a class, inside its sequencer, and inside a
window of `ATTRS`; each operation takes related states to the same value, or the same stop, and to related states. -/

namespace Sys2Proof.Machine

/-! ### What two states share -/

/-- The same frame: what a sequencer may depend on at its entry. -/
structure SameFrame (s u : State) : Prop where
  cfg : s.cfg = u.cfg
  fb : s.fb = u.fb
  ts : s.ts = u.ts
  typ : s.typ = u.typ
  subtyp : s.subtyp = u.subtyp
  len : s.len = u.len
  et : s.et = u.et
  hlen : s.hlen = u.hlen

/-- The same frame and the same cursor and class columns: what `enterClass` establishes. The window of `ATTRS` is
left out, since each call sets it afresh (44 R135). -/
structure SameContext (s u : State) : Prop extends SameFrame s u where
  cur : s.cur = u.cur
  lim : s.lim = u.lim
  asw : s.asw = u.asw
  afw : s.afw = u.afw
  ap : s.ap = u.ap

/-- The same context and the same window: what `ATTRS` establishes before it walks. -/
structure SameWindow (s u : State) : Prop extends SameContext s u where
  atCur : s.atCur = u.atCur
  atLim : s.atLim = u.atLim
  atAsw : s.atAsw = u.atAsw

/-! ### Operations that respect a relation -/

/-- Two results alike: the same value in related states, or the same stop. -/
def Alike {α : Type} (R : State → State → Prop) : EStateM.Result Stop State α → EStateM.Result Stop State α → Prop
  | .ok a s, .ok b u => a = b ∧ R s u
  | .error e _, .error f _ => e = f
  | _, _ => False

/-- From states related by `R` the operation comes to results alike up to `R'`. -/
def Respects {α : Type} (R R' : State → State → Prop) (x : Op α) : Prop :=
  ∀ ⦃s u : State⦄, R s u → Alike R' (x s) (x u)

section Combinators

variable {α β : Type} {R R' R'' : State → State → Prop}

theorem Respects.bind {x : Op α} {f : α → Op β} (hx : Respects R R' x) (hf : ∀ a, Respects R' R'' (f a)) :
    Respects R R'' (x >>= f) := by
  intro s u h
  have hr := hx h
  rw [Op.bind_apply, Op.bind_apply]
  cases hs : x s <;> cases hu : x u <;> rw [hs, hu] at hr
  case ok.ok a s' b u' =>
    obtain ⟨rfl, h'⟩ := hr
    exact hf a h'
  case error.error => exact hr
  all_goals exact hr.elim

theorem Respects.weaken {x : Op α} (hx : Respects R R' x) (hw : ∀ s u, R' s u → R'' s u) : Respects R R'' x := by
  intro s u h
  have hr := hx h
  cases hs : x s <;> cases hu : x u <;> rw [hs, hu] at hr
  case ok.ok => exact ⟨hr.1, hw _ _ hr.2⟩
  case error.error => exact hr
  all_goals exact hr.elim

theorem Respects.ite {x y : Op α} {p : Prop} [Decidable p] (hx : Respects R R' x) (hy : Respects R R' y) :
    Respects R R' (if p then x else y) := by
  split
  · exact hx
  · exact hy

theorem pure_respects (a : α) : Respects R R (pure a : Op α) := fun _ _ h => ⟨rfl, h⟩

theorem raise_respects (k : Raise) : Respects R R' (raise k : Op α) := fun _ _ _ => rfl

theorem update_respects {f : State → State} (h : ∀ s u, R s u → R' (f s) (f u)) : Respects R R' (update f) :=
  fun s u hsu => ⟨rfl, h s u hsu⟩

theorem readReq_respects (r : RegName) {get : State → Option α} (hget : ∀ s u, R s u → get s = get u) :
    Respects R R (readReq r get) := by
  intro s u h
  have hg := hget s u h
  cases hu : get u with
  | none => rw [readReq_none (hg.trans hu), readReq_none hu]; rfl
  | some v => rw [readReq_some (hg.trans hu), readReq_some hu]; exact ⟨rfl, h⟩

theorem askCfg_respects (f : Cfg → α) (hcfg : ∀ s u, R s u → s.cfg = u.cfg) : Respects R R (askCfg f) :=
  fun s u h => ⟨congrArg f (hcfg s u h), h⟩

theorem memRead_respects (a n : Nat) (hR : ∀ s u, R s u → SameFrame s u) : Respects R R (memRead a n) := by
  intro s u h
  unfold memRead
  rw [(hR s u h).fb, (hR s u h).cfg]
  cases u.fb.readRun a n with
  | none => exact rfl
  | some b => exact ⟨rfl, h⟩

theorem repeated_respects {op : Op α} (h : Respects R R op) : ∀ n, Respects R R (repeated n op)
  | 0 => pure_respects _
  | n + 1 => h.bind fun _ => (repeated_respects h n).bind fun _ => pure_respects _

end Combinators

/-! ### The cursor operations, the AS decoder and the header -/

theorem readCountsUs_respects : Respects SameFrame SameFrame readCountsUs :=
  (askCfg_respects _ fun _ _ h => h.cfg).bind fun _ => .ite (readReq_respects _ fun _ _ h => h.et) (pure_respects _)

theorem enterClass_respects (c : RecordClass) : Respects SameFrame SameContext (enterClass c) :=
  (readReq_respects _ fun _ _ h => h.hlen).bind fun _ =>
  (readReq_respects _ fun _ _ h => h.len).bind fun _ =>
  readCountsUs_respects.bind fun _ =>
  update_respects fun _ _ h => { h with cur := rfl, lim := rfl, asw := rfl, afw := rfl, ap := rfl }

theorem readAsw_respects : Respects SameContext SameContext (readReq .asw State.asw) :=
  readReq_respects _ fun _ _ h => h.asw

theorem readAfw_respects : Respects SameContext SameContext (readReq .afw State.afw) :=
  readReq_respects _ fun _ _ h => h.afw

theorem extract_respects (n : Nat) : Respects SameContext SameContext (extract n) :=
  (readReq_respects _ fun _ _ h => h.cur).bind fun _ =>
  (readReq_respects _ fun _ _ h => h.lim).bind fun _ =>
  .ite (raise_respects _) <|
    (memRead_respects _ _ fun _ _ h => h.toSameFrame).bind fun _ =>
    (update_respects fun _ _ h => { h with cur := rfl }).bind fun _ => pure_respects _

theorem bytes_respects (n : Nat) : Respects SameContext SameContext (bytes n) := extract_respects n

theorem u8_respects : Respects SameContext SameContext u8 := (extract_respects 1).bind fun _ => pure_respects _

theorem u16_respects : Respects SameContext SameContext u16 := (extract_respects 2).bind fun _ => pure_respects _

theorem u32_respects : Respects SameContext SameContext u32 := (extract_respects 4).bind fun _ => pure_respects _

theorem addr_respects (w : Nat) : Respects SameContext SameContext (addr w) :=
  .ite (bytes_respects w) fun _ _ _ => rfl

theorem rest_respects : Respects SameContext SameContext rest :=
  (readReq_respects _ fun _ _ h => h.cur).bind fun _ =>
  (readReq_respects _ fun _ _ h => h.lim).bind fun _ => bytes_respects _

theorem asNumber_respects (w : Nat) : Respects SameContext SameContext (asNumber w) := by
  obtain ⟨-, h⟩ | ⟨-, h⟩ | ⟨-, h⟩ | ⟨-, -, -, h⟩ := asNumber_cases w <;> rw [h]
  · exact u16_respects.bind fun _ => pure_respects _
  · exact u32_respects.bind fun _ => pure_respects _
  · exact pure_respects _
  · exact raise_respects _

theorem selectAf_respects (af : Half) : Respects SameContext SameContext (selectAf af) :=
  (askCfg_respects _ fun _ _ h => h.cfg).bind fun
    | some _ => update_respects fun _ _ h => { h with afw := rfl }
    | none => raise_respects _

theorem frameHdr_respects : Respects SameContext SameContext frameHdr :=
  (readReq_respects _ fun _ _ h => h.ts).bind fun _ =>
  (readReq_respects _ fun _ _ h => h.typ).bind fun _ =>
  (readReq_respects _ fun _ _ h => h.subtyp).bind fun _ => pure_respects _

/-! ### The units -/

theorem attrForm_respects (flags : Byte) (ext : Bool) : Respects SameWindow SameWindow (attrForm flags ext) :=
  (readReq_respects _ fun _ _ h => h.atCur).bind fun _ =>
  (readReq_respects _ fun _ _ h => h.atLim).bind fun _ =>
  (readReq_respects _ fun _ _ h => h.atAsw).bind fun _ =>
  .ite (raise_respects _) <|
    (memRead_respects _ _ fun _ _ h => h.toSameFrame).bind fun _ =>
    (memRead_respects _ _ fun _ _ h => h.toSameFrame).bind fun _ =>
    .ite (raise_respects _) <|
      (memRead_respects _ _ fun _ _ h => h.toSameFrame).bind fun _ =>
      (update_respects fun _ _ h => { h with atCur := rfl }).bind fun _ => pure_respects _

theorem attrNext_respects : Respects SameWindow SameWindow attrNext :=
  (readReq_respects _ fun _ _ h => h.atCur).bind fun _ =>
  (readReq_respects _ fun _ _ h => h.atLim).bind fun _ =>
  .ite (pure_respects _) <| .ite (raise_respects _) <|
    (memRead_respects _ _ fun _ _ h => h.toSameFrame).bind fun _ =>
    (askCfg_respects _ fun _ _ h => h.cfg).bind fun _ =>
    (attrForm_respects _ _).bind fun _ => pure_respects _

theorem attrLoop_respects : ∀ k, Respects SameWindow SameWindow (attrLoop k)
  | 0 => fun _ _ _ => rfl
  | k + 1 => attrNext_respects.bind fun
    | none => pure_respects _
    | some _ => (attrLoop_respects k).bind fun _ => pure_respects _

/-- `ATTRS` needs no window shared beforehand, because it writes the whole window before it reads it (44 R135). -/
theorem attrs_respects (n asw : Nat) : Respects SameContext SameContext (attrs n asw) :=
  (readReq_respects _ fun _ _ h => h.cur).bind fun _ =>
  (bytes_respects n).bind fun _ =>
  (update_respects fun _ _ h => { h with atCur := rfl, atLim := rfl, atAsw := rfl }).bind fun _ =>
  (attrLoop_respects (n + 1)).weaken fun _ _ h => h.toSameContext

theorem nlri_respects (afw : Nat) : Respects SameContext SameContext (nlri afw) :=
  u8_respects.bind fun _ =>
  (askCfg_respects _ fun _ _ h => h.cfg).bind fun _ =>
  .ite (raise_respects _) <| (bytes_respects _).bind fun _ => pure_respects _

theorem peer_respects : Respects SameContext SameContext peer :=
  u8_respects.bind fun _ =>
  u32_respects.bind fun _ =>
  (addr_respects _).bind fun _ =>
  (asNumber_respects _).bind fun _ => pure_respects _

theorem pathId_respects : Respects SameContext SameContext pathId :=
  (readReq_respects _ fun _ _ h => h.ap).bind fun _ =>
  .ite (u32_respects.bind fun _ => pure_respects _) (pure_respects _)

theorem ribEntry_respects : Respects SameContext SameContext ribEntry :=
  u16_respects.bind fun _ =>
  u32_respects.bind fun _ =>
  pathId_respects.bind fun _ =>
  u16_respects.bind fun _ =>
  (attrs_respects _ _).bind fun _ => pure_respects _

theorem b4Head_respects : Respects SameContext SameContext b4Head :=
  readAsw_respects.bind fun _ =>
  (asNumber_respects _).bind fun _ =>
  (asNumber_respects _).bind fun _ =>
  u16_respects.bind fun _ =>
  u16_respects.bind fun _ =>
  (selectAf_respects _).bind fun _ =>
  readAfw_respects.bind fun _ =>
  (addr_respects _).bind fun _ =>
  (addr_respects _).bind fun _ => pure_respects _

/-! ### The body sequencers -/

theorem tableDump_respects : Respects SameContext SameContext tableDump :=
  u16_respects.bind fun _ =>
  u16_respects.bind fun _ =>
  readAfw_respects.bind fun _ =>
  (addr_respects _).bind fun _ =>
  u8_respects.bind fun _ =>
  u8_respects.bind fun _ =>
  u32_respects.bind fun _ =>
  (addr_respects _).bind fun _ =>
  (asNumber_respects _).bind fun _ =>
  u16_respects.bind fun _ =>
  (attrs_respects _ _).bind fun _ =>
  frameHdr_respects.bind fun _ => pure_respects _

theorem peerIndexTable_respects : Respects SameContext SameContext peerIndexTable :=
  u32_respects.bind fun _ =>
  u16_respects.bind fun _ =>
  (bytes_respects _).bind fun _ =>
  u16_respects.bind fun _ =>
  (repeated_respects peer_respects _).bind fun _ =>
  frameHdr_respects.bind fun _ => pure_respects _

theorem rib_respects : Respects SameContext SameContext rib :=
  u32_respects.bind fun _ =>
  readAfw_respects.bind fun _ =>
  (nlri_respects _).bind fun _ =>
  u16_respects.bind fun _ =>
  (repeated_respects ribEntry_respects _).bind fun _ =>
  frameHdr_respects.bind fun _ => pure_respects _

theorem ribGeneric_respects : Respects SameContext SameContext ribGeneric :=
  u32_respects.bind fun _ =>
  u16_respects.bind fun _ =>
  u8_respects.bind fun _ =>
  (selectAf_respects _).bind fun _ =>
  readAfw_respects.bind fun _ =>
  (nlri_respects _).bind fun _ =>
  u16_respects.bind fun _ =>
  (repeated_respects ribEntry_respects _).bind fun _ =>
  frameHdr_respects.bind fun _ => pure_respects _

theorem stateChange_respects : Respects SameContext SameContext stateChange :=
  b4Head_respects.bind fun _ =>
  u16_respects.bind fun _ =>
  u16_respects.bind fun _ =>
  frameHdr_respects.bind fun _ => pure_respects _

/-- Whatever `BgpMsgDecode` is: it is a function of the payload, the AS width and the address family alone. -/
theorem message_respects : Respects SameContext SameContext message := by
  refine b4Head_respects.bind fun head => rest_respects.bind fun payload => readAsw_respects.bind fun asw => ?_
  cases Config.bgpMsgDecode payload asw head.af with
  | none => exact raise_respects _
  | some msg => exact frameHdr_respects.bind fun _ => pure_respects _

theorem ospfv2_respects : Respects SameContext SameContext ospfv2 :=
  (addr_respects _).bind fun _ =>
  (addr_respects _).bind fun _ =>
  rest_respects.bind fun _ =>
  frameHdr_respects.bind fun _ => pure_respects _

theorem ospfv3_respects : Respects SameContext SameContext ospfv3 :=
  u16_respects.bind fun _ =>
  (selectAf_respects _).bind fun _ =>
  readAfw_respects.bind fun _ =>
  (addr_respects _).bind fun _ =>
  (addr_respects _).bind fun _ =>
  rest_respects.bind fun _ =>
  frameHdr_respects.bind fun _ => pure_respects _

theorem isis_respects : Respects SameContext SameContext isis :=
  rest_respects.bind fun _ =>
  frameHdr_respects.bind fun _ => pure_respects _

/-! ### A frame instruction -/

/-- The body sequencer of a class (41 R104). -/
def sequencer : RecordClass → Op Record
  | .tdV4 | .tdV6 => tableDump
  | .td2Pit => peerIndexTable
  | .td2RibV4u | .td2RibV4m | .td2RibV6u | .td2RibV6m
  | .td2RibV4uAp | .td2RibV4mAp | .td2RibV6uAp | .td2RibV6mAp => rib
  | .td2Ribg | .td2RibgAp => ribGeneric
  | .b4Sc | .b4Sc4 => stateChange
  | .b4Msg | .b4Msg4 => message
  | .ospf2 => ospfv2
  | .ospf3 => ospfv3
  | .isis => isis

/-- A frame instruction runs its class's sequencer; a form with extended timestamp runs its plain twin's (46 R164). -/
theorem exec_eq_runClass {i : Instr} {c : RecordClass} (h : i.recordClass = some c) (s : State) :
    exec i s = runClass c (sequencer c) s := by
  cases i <;> cases h <;> rfl

theorem sequencer_respects (c : RecordClass) : Respects SameContext SameContext (sequencer c) := by
  cases c with
  | tdV4 | tdV6 => exact tableDump_respects
  | td2Pit => exact peerIndexTable_respects
  | td2RibV4u | td2RibV4m | td2RibV6u | td2RibV6m | td2RibV4uAp | td2RibV4mAp | td2RibV6uAp | td2RibV6mAp =>
    exact rib_respects
  | td2Ribg | td2RibgAp => exact ribGeneric_respects
  | b4Sc | b4Sc4 => exact stateChange_respects
  | b4Msg | b4Msg4 => exact message_respects
  | ospf2 => exact ospfv2_respects
  | ospf3 => exact ospfv3_respects
  | isis => exact isis_respects

/-- Sequencers that end alike give the same result and the same Record: a delivery shows only the value, an abort only the
kind (60 R190). -/
theorem finish_next_of_alike {R : State → State → Prop} {p q : EStateM.Result Stop State Record} {t : State}
    (h : Alike R p q) (hp : finish p = .next t) : ∃ v, finish q = .next v ∧ v.res = t.res ∧ v.record = t.record := by
  obtain ⟨r, s, rfl, rfl⟩ | ⟨k, s, rfl, rfl⟩ := finish_next hp
  · cases q with
    | ok r' u =>
      obtain ⟨rfl, -⟩ := h
      exact ⟨deliver r u, rfl, rfl, rfl⟩
    | error e u => exact h.elim
  · cases q with
    | ok r' u => exact h.elim
    | error e u =>
      obtain rfl : Stop.raised k = e := h
      exact ⟨abort k.kind u, rfl, rfl, rfl⟩

/-- Settles O40: `enterClass` makes the two states agree on the cursor and the class columns, and the sequencer then respects
that agreement, so both ends show the same value or the same kind. -/
theorem resultDependsOnTheFrameAlone : Obligations.ResultDependsOnTheFrameAlone := by
  intro i c s u t hi hcfg hfb hts htyp hsub hlen het hhlen hexec
  have hframe : SameFrame s u := ⟨hcfg, hfb, hts, htyp, hsub, hlen, het, hhlen⟩
  have hbody := (enterClass_respects c).bind (fun _ => sequencer_respects c) hframe
  rw [exec_eq_runClass hi] at hexec ⊢
  exact finish_next_of_alike hbody hexec

end Sys2Proof.Machine

/-! PROOFS. What a caller's read shows (10_state R12, R13, R19 to R21), one equation for each form of register. -/

namespace Sys2Proof.Machine

theorem viewBits_eq_elim {w : Nat} (v : Option (BitVec w)) : viewBits v = v.elim .none fun x => .bits w x.toNat := by
  cases v <;> rfl

theorem viewReg_res (s : State) : viewReg .res s = s.res.elim .none fun k => .code k.code := by
  unfold viewReg
  cases s.res <;> rfl

theorem viewReg_iocode (s : State) : viewReg .iocode s = s.iocode.elim .none .iocode := by
  unfold viewReg
  cases s.iocode <;> rfl

theorem viewReg_et (s : State) : viewReg .et s = s.et.elim .none fun b => .bits 1 (if b then 1 else 0) := by
  unfold viewReg
  obtain _ | b := s.et
  · rfl
  · cases b <;> rfl

theorem viewReg_hlen (s : State) : viewReg .hlen s = s.hlen.elim .none fun h => .bits 5 h := by
  unfold viewReg
  cases s.hlen <;> rfl

theorem viewReg_record (s : State) : viewReg .record s = s.record.elim .none .record := by
  unfold viewReg
  cases s.record <;> rfl

/-- Settles O60: the enumerated registers by their cases, the others by the view of their form. -/
theorem registersShowTheirCodes : Obligations.RegistersShowTheirCodes := by
  refine ⟨fun s => ⟨?res, ?term, viewReg_iocode s, rfl, viewBits_eq_elim _, viewBits_eq_elim _, viewBits_eq_elim _,
    viewBits_eq_elim _, viewReg_et s, viewReg_hlen s, viewBits_eq_elim _, viewBits_eq_elim _, viewReg_record s⟩,
    rfl, rfl⟩
  case res =>
    rw [viewReg_res]
    obtain _ | k := s.res
    · rfl
    · cases k <;> rfl
  case term =>
    unfold viewReg
    cases s.term <;> rfl

end Sys2Proof.Machine

/-! PROOFS. The frame buffer of the invariant (10_state R15): it is read everywhere below the bytes read so far, and a write at
their end extends them. -/

namespace Sys2Proof.Machine

/-- A byte has a value exactly when its address is listed. -/
theorem Memory.read_isSome_iff (m : Memory) (a : Nat) : (m.read a).isSome = true ↔ a ∈ m.map Prod.fst := by
  simp [Memory.read, List.find?_isSome]

/-- A run is read when each of its addresses is listed (20 R44). -/
theorem Memory.exists_readRun {m : Memory} {a n : Nat} (h : ∀ x, a ≤ x → x < a + n → x ∈ m.map Prod.fst) :
    ∃ b, m.readRun a n = some b := by
  induction n generalizing a with
  | zero => exact ⟨[], rfl⟩
  | succ n ih =>
    obtain ⟨v, hv⟩ := Option.isSome_iff_exists.mp ((m.read_isSome_iff a).mpr (h a le_rfl (by omega)))
    obtain ⟨b, hb⟩ := ih (a := a + 1) fun x hx hx' => h x (by omega) (by omega)
    exact ⟨v :: b, by rw [Memory.readRun_succ, hv, hb]; rfl⟩

theorem Covers.exists_readRun {s : State} {n a k : Nat} (h : Covers s n) (hk : a + k ≤ n) :
    ∃ b, s.fb.readRun a k = some b :=
  Memory.exists_readRun fun x _ hx => by
    rw [h, List.mem_range]
    omega

/-- A run written where the listed addresses end extends them by its length. -/
theorem Memory.write_covers {m : Memory} {n : Nat} (h : m.map Prod.fst = List.range n) (b : Run) :
    (m.write n b).map Prod.fst = List.range (n + b.length) := by
  have hlt : ∀ c ∈ m, c.1 < n := fun c hc => List.mem_range.mp (h ▸ List.mem_map_of_mem hc)
  have hlo : (m.filter fun c => decide (c.1 < n)) = m :=
    List.filter_eq_self.mpr fun c hc => decide_eq_true (hlt c hc)
  have hhi : (m.filter fun c => decide (n + b.length ≤ c.1)) = [] :=
    List.filter_eq_nil_iff.mpr fun c hc => by
      have := hlt c hc
      simp only [decide_eq_true_eq]
      omega
  rw [Memory.write, hlo, hhi, List.append_nil, List.map_append, h, Memory.cells_fst, List.range_add,
    List.range'_eq_map_range]

end Sys2Proof.Machine

/-! PROOFS. What a decode may write (10_state R16, R18): every operation of a sequencer, however it ends, leaves all
registers but `FB`, the cursor and group X as they were. -/

namespace Sys2Proof.Machine

/-- The state an operation ends in, with a value or with a stop. -/
def endState {α : Type} : EStateM.Result Stop State α → State
  | .ok _ t => t
  | .error _ t => t

/-- The operation writes only registers that hold values while a frame is decoded. -/
def StaysInFrame {α : Type} (x : Op α) : Prop :=
  ∀ s, (endState (x s)).leaveFrame = s.leaveFrame

section Combinators

variable {α β : Type}

theorem StaysInFrame.ok {x : Op α} (hx : StaysInFrame x) {s t : State} {a : α} (h : x s = .ok a t) :
    t.leaveFrame = s.leaveFrame := by
  simpa [h, endState] using hx s

theorem StaysInFrame.error {x : Op α} (hx : StaysInFrame x) {s t : State} {e : Stop} (h : x s = .error e t) :
    t.leaveFrame = s.leaveFrame := by
  simpa [h, endState] using hx s

theorem StaysInFrame.bind {x : Op α} {f : α → Op β} (hx : StaysInFrame x) (hf : ∀ a, StaysInFrame (f a)) :
    StaysInFrame (x >>= f) := by
  intro s
  cases h : x s with
  | ok a t => rw [Op.bind_ok h, hf a t, hx.ok h]
  | error e t => rw [Op.bind_error h]; exact hx.error h

theorem StaysInFrame.ite {x y : Op α} {p : Prop} [Decidable p] (hx : StaysInFrame x) (hy : StaysInFrame y) :
    StaysInFrame (if p then x else y) := by
  split
  · exact hx
  · exact hy

theorem pure_staysInFrame (a : α) : StaysInFrame (pure a : Op α) := fun _ => rfl

theorem raise_staysInFrame (k : Raise) : StaysInFrame (raise k : Op α) := fun _ => rfl

theorem update_staysInFrame {f : State → State} (h : ∀ s, (f s).leaveFrame = s.leaveFrame) :
    StaysInFrame (update f) := h

theorem askCfg_staysInFrame (f : Cfg → α) : StaysInFrame (askCfg f) := fun _ => rfl

theorem readReq_staysInFrame (r : RegName) (get : State → Option α) : StaysInFrame (readReq r get) := by
  intro s
  cases h : get s with
  | none => rw [readReq_none h]; rfl
  | some v => rw [readReq_some h]; rfl

theorem memRead_staysInFrame (a n : Nat) : StaysInFrame (memRead a n) := by
  intro s
  obtain ⟨b, -, h⟩ | ⟨-, f, h⟩ := memRead_cases a n s <;> rw [h] <;> rfl

theorem repeated_staysInFrame {op : Op α} (h : StaysInFrame op) : ∀ n, StaysInFrame (repeated n op)
  | 0 => pure_staysInFrame _
  | n + 1 => h.bind fun _ => (repeated_staysInFrame h n).bind fun _ => pure_staysInFrame _

end Combinators

/-! ### The cursor operations, the AS decoder and the header -/

theorem readCountsUs_staysInFrame : StaysInFrame readCountsUs :=
  (askCfg_staysInFrame _).bind fun _ => .ite (readReq_staysInFrame _ _) (pure_staysInFrame _)

theorem enterClass_staysInFrame (c : RecordClass) : StaysInFrame (enterClass c) :=
  (readReq_staysInFrame _ _).bind fun _ =>
  (readReq_staysInFrame _ _).bind fun _ =>
  readCountsUs_staysInFrame.bind fun _ => update_staysInFrame fun _ => rfl

/-- Each case of the common law (40 R90) writes the cursor or nothing. -/
theorem extract_staysInFrame (n : Nat) : StaysInFrame (extract n) := by
  intro s
  obtain ⟨c, l, b, -, -, -, -, h⟩ | ⟨c, l, -, -, -, h⟩ | ⟨-, f, h⟩ := extract_cases n s <;> rw [h] <;> rfl

theorem bytes_staysInFrame (n : Nat) : StaysInFrame (bytes n) := extract_staysInFrame n

theorem u8_staysInFrame : StaysInFrame u8 := (extract_staysInFrame 1).bind fun _ => pure_staysInFrame _

theorem u16_staysInFrame : StaysInFrame u16 := (extract_staysInFrame 2).bind fun _ => pure_staysInFrame _

theorem u32_staysInFrame : StaysInFrame u32 := (extract_staysInFrame 4).bind fun _ => pure_staysInFrame _

theorem addr_staysInFrame (w : Nat) : StaysInFrame (addr w) := .ite (bytes_staysInFrame w) fun _ => rfl

theorem rest_staysInFrame : StaysInFrame rest :=
  (readReq_staysInFrame _ _).bind fun _ => (readReq_staysInFrame _ _).bind fun _ => bytes_staysInFrame _

theorem asNumber_staysInFrame (w : Nat) : StaysInFrame (asNumber w) := by
  obtain ⟨-, h⟩ | ⟨-, h⟩ | ⟨-, h⟩ | ⟨-, -, -, h⟩ := asNumber_cases w <;> rw [h]
  · exact u16_staysInFrame.bind fun _ => pure_staysInFrame _
  · exact u32_staysInFrame.bind fun _ => pure_staysInFrame _
  · exact pure_staysInFrame _
  · exact raise_staysInFrame _

theorem selectAf_staysInFrame (af : Half) : StaysInFrame (selectAf af) := by
  intro s
  cases h : afWidth s.cfg af with
  | none => rw [selectAf_none h]; rfl
  | some w => rw [selectAf_some h]; rfl

theorem frameHdr_staysInFrame : StaysInFrame frameHdr :=
  (readReq_staysInFrame _ _).bind fun _ =>
  (readReq_staysInFrame _ _).bind fun _ =>
  (readReq_staysInFrame _ _).bind fun _ => pure_staysInFrame _

/-! ### The units -/

theorem attrForm_staysInFrame (flags : Byte) (ext : Bool) : StaysInFrame (attrForm flags ext) :=
  (readReq_staysInFrame _ _).bind fun _ =>
  (readReq_staysInFrame _ _).bind fun _ =>
  (readReq_staysInFrame _ _).bind fun _ =>
  .ite (raise_staysInFrame _) <|
    (memRead_staysInFrame _ _).bind fun _ =>
    (memRead_staysInFrame _ _).bind fun _ =>
    .ite (raise_staysInFrame _) <|
      (memRead_staysInFrame _ _).bind fun _ =>
      (update_staysInFrame fun _ => by rfl).bind fun _ => pure_staysInFrame _

theorem attrNext_staysInFrame : StaysInFrame attrNext :=
  (readReq_staysInFrame _ _).bind fun _ =>
  (readReq_staysInFrame _ _).bind fun _ =>
  .ite (pure_staysInFrame _) <| .ite (raise_staysInFrame _) <|
    (memRead_staysInFrame _ _).bind fun _ =>
    (askCfg_staysInFrame _).bind fun _ =>
    (attrForm_staysInFrame _ _).bind fun _ => pure_staysInFrame _

theorem attrLoop_staysInFrame : ∀ k, StaysInFrame (attrLoop k)
  | 0 => fun _ => rfl
  | k + 1 => attrNext_staysInFrame.bind fun
    | none => pure_staysInFrame _
    | some _ => (attrLoop_staysInFrame k).bind fun _ => pure_staysInFrame _

theorem attrs_staysInFrame (n asw : Nat) : StaysInFrame (attrs n asw) :=
  (readReq_staysInFrame _ _).bind fun _ =>
  (bytes_staysInFrame n).bind fun _ =>
  (update_staysInFrame fun _ => by rfl).bind fun _ => attrLoop_staysInFrame (n + 1)

theorem nlri_staysInFrame (afw : Nat) : StaysInFrame (nlri afw) :=
  u8_staysInFrame.bind fun _ =>
  (askCfg_staysInFrame _).bind fun _ =>
  .ite (raise_staysInFrame _) <| (bytes_staysInFrame _).bind fun _ => pure_staysInFrame _

theorem peer_staysInFrame : StaysInFrame peer :=
  u8_staysInFrame.bind fun _ =>
  u32_staysInFrame.bind fun _ =>
  (addr_staysInFrame _).bind fun _ =>
  (asNumber_staysInFrame _).bind fun _ => pure_staysInFrame _

theorem pathId_staysInFrame : StaysInFrame pathId :=
  (readReq_staysInFrame _ _).bind fun _ =>
  .ite (u32_staysInFrame.bind fun _ => pure_staysInFrame _) (pure_staysInFrame _)

theorem ribEntry_staysInFrame : StaysInFrame ribEntry :=
  u16_staysInFrame.bind fun _ =>
  u32_staysInFrame.bind fun _ =>
  pathId_staysInFrame.bind fun _ =>
  u16_staysInFrame.bind fun _ =>
  (attrs_staysInFrame _ _).bind fun _ => pure_staysInFrame _

theorem b4Head_staysInFrame : StaysInFrame b4Head :=
  (readReq_staysInFrame _ _).bind fun _ =>
  (asNumber_staysInFrame _).bind fun _ =>
  (asNumber_staysInFrame _).bind fun _ =>
  u16_staysInFrame.bind fun _ =>
  u16_staysInFrame.bind fun _ =>
  (selectAf_staysInFrame _).bind fun _ =>
  (readReq_staysInFrame _ _).bind fun _ =>
  (addr_staysInFrame _).bind fun _ =>
  (addr_staysInFrame _).bind fun _ => pure_staysInFrame _

/-! ### The body sequencers -/

theorem tableDump_staysInFrame : StaysInFrame tableDump :=
  u16_staysInFrame.bind fun _ =>
  u16_staysInFrame.bind fun _ =>
  (readReq_staysInFrame _ _).bind fun _ =>
  (addr_staysInFrame _).bind fun _ =>
  u8_staysInFrame.bind fun _ =>
  u8_staysInFrame.bind fun _ =>
  u32_staysInFrame.bind fun _ =>
  (addr_staysInFrame _).bind fun _ =>
  (asNumber_staysInFrame _).bind fun _ =>
  u16_staysInFrame.bind fun _ =>
  (attrs_staysInFrame _ _).bind fun _ =>
  frameHdr_staysInFrame.bind fun _ => pure_staysInFrame _

theorem peerIndexTable_staysInFrame : StaysInFrame peerIndexTable :=
  u32_staysInFrame.bind fun _ =>
  u16_staysInFrame.bind fun _ =>
  (bytes_staysInFrame _).bind fun _ =>
  u16_staysInFrame.bind fun _ =>
  (repeated_staysInFrame peer_staysInFrame _).bind fun _ =>
  frameHdr_staysInFrame.bind fun _ => pure_staysInFrame _

theorem rib_staysInFrame : StaysInFrame rib :=
  u32_staysInFrame.bind fun _ =>
  (readReq_staysInFrame _ _).bind fun _ =>
  (nlri_staysInFrame _).bind fun _ =>
  u16_staysInFrame.bind fun _ =>
  (repeated_staysInFrame ribEntry_staysInFrame _).bind fun _ =>
  frameHdr_staysInFrame.bind fun _ => pure_staysInFrame _

theorem ribGeneric_staysInFrame : StaysInFrame ribGeneric :=
  u32_staysInFrame.bind fun _ =>
  u16_staysInFrame.bind fun _ =>
  u8_staysInFrame.bind fun _ =>
  (selectAf_staysInFrame _).bind fun _ =>
  (readReq_staysInFrame _ _).bind fun _ =>
  (nlri_staysInFrame _).bind fun _ =>
  u16_staysInFrame.bind fun _ =>
  (repeated_staysInFrame ribEntry_staysInFrame _).bind fun _ =>
  frameHdr_staysInFrame.bind fun _ => pure_staysInFrame _

theorem stateChange_staysInFrame : StaysInFrame stateChange :=
  b4Head_staysInFrame.bind fun _ =>
  u16_staysInFrame.bind fun _ =>
  u16_staysInFrame.bind fun _ =>
  frameHdr_staysInFrame.bind fun _ => pure_staysInFrame _

/-- Whatever `BgpMsgDecode` answers, it is a value or an error and writes no register (46 R163). -/
theorem message_staysInFrame : StaysInFrame message := by
  refine b4Head_staysInFrame.bind fun head => rest_staysInFrame.bind fun payload =>
    (readReq_staysInFrame _ _).bind fun asw => ?_
  cases Config.bgpMsgDecode payload asw head.af with
  | none => exact raise_staysInFrame _
  | some msg => exact frameHdr_staysInFrame.bind fun _ => pure_staysInFrame _

theorem ospfv2_staysInFrame : StaysInFrame ospfv2 :=
  (addr_staysInFrame _).bind fun _ =>
  (addr_staysInFrame _).bind fun _ =>
  rest_staysInFrame.bind fun _ =>
  frameHdr_staysInFrame.bind fun _ => pure_staysInFrame _

theorem ospfv3_staysInFrame : StaysInFrame ospfv3 :=
  u16_staysInFrame.bind fun _ =>
  (selectAf_staysInFrame _).bind fun _ =>
  (readReq_staysInFrame _ _).bind fun _ =>
  (addr_staysInFrame _).bind fun _ =>
  (addr_staysInFrame _).bind fun _ =>
  rest_staysInFrame.bind fun _ =>
  frameHdr_staysInFrame.bind fun _ => pure_staysInFrame _

theorem isis_staysInFrame : StaysInFrame isis :=
  rest_staysInFrame.bind fun _ => frameHdr_staysInFrame.bind fun _ => pure_staysInFrame _

theorem sequencer_staysInFrame (c : RecordClass) : StaysInFrame (sequencer c) := by
  cases c with
  | tdV4 | tdV6 => exact tableDump_staysInFrame
  | td2Pit => exact peerIndexTable_staysInFrame
  | td2RibV4u | td2RibV4m | td2RibV6u | td2RibV6m | td2RibV4uAp | td2RibV4mAp | td2RibV6uAp | td2RibV6mAp =>
    exact rib_staysInFrame
  | td2Ribg | td2RibgAp => exact ribGeneric_staysInFrame
  | b4Sc | b4Sc4 => exact stateChange_staysInFrame
  | b4Msg | b4Msg4 => exact message_staysInFrame
  | ospf2 => exact ospfv2_staysInFrame
  | ospf3 => exact ospfv3_staysInFrame
  | isis => exact isis_staysInFrame

/-! ### A frame instruction -/

/-- A next state of a frame instruction is the end of its frame, with a Record exactly under the result Record (41 R104,
60 R190). -/
theorem exec_next_endFrame {i : Instr} {c : RecordClass} {s t : State} (hi : i.recordClass = some c)
    (h : exec i s = .next t) : ∃ k r, t = endFrame k r s ∧ (r.isSome = true ↔ k = .record) := by
  have hstay : StaysInFrame (do enterClass c; sequencer c : Op Record) :=
    (enterClass_staysInFrame c).bind fun _ => sequencer_staysInFrame c
  rw [exec_eq_runClass hi] at h
  obtain ⟨r, u, hu, rfl⟩ | ⟨k, u, hu, rfl⟩ := finish_next h
  · exact ⟨.record, some r, endFrame_congr _ _ _ _ (hstay.ok hu), by simp⟩
  · exact ⟨k.kind, none, endFrame_congr _ _ _ _ (hstay.error hu), by cases k <;> simp [Raise.kind]⟩

end Sys2Proof.Machine

/-! PROOFS. Every step keeps the invariant (10_state R12 to R21, 41 R100 to R104, 60 R191): what all states inside a `NEXT`
share, the two ways a `NEXT` ends, and then each state of the stream reader by the next states it can come to. -/

namespace Sys2Proof.Machine

/-! ### The header registers -/

/-- A header that was read, by its values. -/
theorem HeaderRead.values {s : State} (h : HeaderRead s) : ∃ sec typ sub len, s.tsSec = some sec ∧ s.typ = some typ ∧
    s.subtyp = some sub ∧ s.len = some len ∧ s.et = some (isEt s.cfg typ) ∧
      s.hlen = some (headerLen (isEt s.cfg typ)) := by
  obtain ⟨hsec, htyp, hsub, hlen, het, hhlen⟩ := h
  obtain ⟨sec, hsec⟩ := Option.isSome_iff_exists.mp hsec
  obtain ⟨typ, htyp⟩ := Option.isSome_iff_exists.mp htyp
  obtain ⟨sub, hsub⟩ := Option.isSome_iff_exists.mp hsub
  obtain ⟨len, hlen⟩ := Option.isSome_iff_exists.mp hlen
  rw [htyp] at het
  rw [het] at hhlen
  exact ⟨sec, typ, sub, len, hsec, htyp, hsub, hlen, het, hhlen⟩

theorem isCut_eq {s : State} {et : Bool} {len : Word} (het : s.et = some et) (hlen : s.len = some len) :
    isCut s = headerCut s.cfg et len := by
  simp [isCut, het, hlen]

theorem frameSize_eq {s : State} {et : Bool} {len : Word} (het : s.et = some et) (hlen : s.len = some len) :
    frameSize s = frameLen s.cfg et len := by
  simp [frameSize, het, hlen]

/-- A frame is its first 12 bytes and those read after them (30 R62, 41 R103). -/
theorem twelve_add_bodyNeed (cfg : Cfg) (et : Bool) (len : Word) : 12 + bodyNeed cfg et len = frameLen cfg et len := by
  unfold bodyNeed frameLen headerLen
  grind

/-- The buffer of 00_scope R4 holds every frame. -/
theorem frameLen_le (cfg : Cfg) (et : Bool) (len : Word) : frameLen cfg et len ≤ 16 + (2 ^ 32 - 1) := by
  have := len.isLt
  unfold frameLen headerLen
  grind

/-- An extended frame that is not cut has its microsecond field (30 R62). -/
theorem microseconds_in_frame {cfg : Cfg} {len : Word} (h : headerCut cfg true len = false) :
    12 + 4 ≤ frameLen cfg true len := by
  unfold headerCut at h
  unfold frameLen
  split
  · next hus =>
    simp only [hus, Bool.true_and, decide_eq_false_iff_not, not_lt] at h
    omega
  · simp [headerLen]

/-! ### What all states inside a NEXT share -/

/-- What the invariant says of every busy state, whatever the state of the stream reader. -/
structure InNext (s : State) : Prop where
  cap : 16 + (2 ^ 32 - 1) ≤ s.cfg.fbCap
  wf : s.fb.wf
  context : NoContext s
  notDone : s.fsm ≠ .done
  live : s.term = .live
  noCode : s.iocode = none
  noRecord : s.record = none
  busy : s.busy = true

/-! What the stream reader's state adds, one equation for each. -/

theorem busyAgrees_awaitingHeader {s : State} (hf : s.fsm = .awaitingHeader) :
    BusyAgrees s ↔ s.record = none ∧ s.fb = [] ∧ HeaderNone s := by
  simp only [BusyAgrees, hf]

theorem busyAgrees_haveHeader {s : State} (hf : s.fsm = .haveHeader) :
    BusyAgrees s ↔ s.record = none ∧ Covers s 12 ∧ HeaderNone s := by
  simp only [BusyAgrees, hf]

theorem busyAgrees_awaitingBody {s : State} (hf : s.fsm = .awaitingBody) :
    BusyAgrees s ↔ s.record = none ∧ Covers s 12 ∧ HeaderRead s ∧ s.tsUsec = none ∧ s.ts = none := by
  simp only [BusyAgrees, hf]

theorem busyAgrees_dispatching {s : State} (hf : s.fsm = .dispatching) :
    BusyAgrees s ↔ s.record = none ∧ Covers s (frameSize s) ∧ HeaderRead s ∧ s.tsUsec.isSome = (!isCut s) ∧
      s.ts.isSome = !isCut s := by
  simp only [BusyAgrees, hf]

theorem not_busyAgrees_done {s : State} (hf : s.fsm = .done) : ¬ BusyAgrees s := by
  simp only [BusyAgrees, hf, and_false, not_false_eq_true]

/-- The invariant at `BUSY = 1`. -/
theorem blockInv_iff_of_busy {s : State} (hb : s.busy = true) : BlockInv s ↔ InNext s ∧ BusyAgrees s := by
  constructor
  · rintro ⟨hcap, hwf, hctx, ⟨hdone, hcode⟩, -, hbusy⟩
    have hagree := hbusy hb
    have hnd : s.fsm ≠ .done := fun hf => not_busyAgrees_done hf hagree
    have hlive : s.term = .live := by_contra fun ht => hnd (hdone.mpr ht)
    have hno : s.iocode = none := by simpa [hlive] using hcode
    exact ⟨⟨hcap, hwf, hctx, hnd, hlive, hno, hagree.1, hb⟩, hagree⟩
  · rintro ⟨h, hagree⟩
    refine ⟨h.cap, h.wf, h.context, ⟨?_, ?_⟩, fun hi => absurd hi (by simp [hb]), fun _ => hagree⟩
    · simp [h.notDone, h.live]
    · simp [h.noCode, h.live]

theorem InNext.inv {s : State} (h : InNext s) (hagree : BusyAgrees s) : BlockInv s :=
  (blockInv_iff_of_busy h.busy).mpr ⟨h, hagree⟩

/-! ### The ends of a NEXT, a reset, and its acceptance -/

theorem Term.replay_ne_record {x : Term} (h : x ≠ .live) : x.replay ≠ .record := by
  cases x with
  | live => exact absurd rfl h
  | endOfStream | truncatedInput | underlyingIOError => nofun

theorem noContext_leaveFrame (s : State) : NoContext s.leaveFrame :=
  ⟨rfl, rfl, rfl, rfl, rfl, rfl, rfl, rfl, rfl, rfl, rfl⟩

/-- The end of a frame meets the invariant: the stream goes on and the header registers stay (41 R104, 60 R190). -/
theorem InNext.inv_endFrame {s : State} (h : InNext s) (hhdr : HeaderRead s) {k : ResKind} {r : Option Record}
    (hr : r.isSome = true ↔ k = .record) : BlockInv (endFrame k r s) := by
  refine ⟨h.cap, Memory.wf_nil, noContext_leaveFrame s, ⟨?_, ?_⟩, fun _ => ?_, nofun⟩
  · simp [h.live]
  · simp [h.live, h.noCode]
  · exact ⟨.inl rfl, rfl, .inr hhdr, by simpa using hr, nofun⟩

/-- A stream-fatal end meets the invariant, with a code exactly for a failure of the supplier (41 R101, R103). -/
theorem InNext.inv_endStream {s : State} (h : InNext s) (hhdr : HeaderNone s ∨ HeaderRead s) {t : Term}
    {code : Option Nat} (ht : t ≠ .live) (hcode : code.isSome = true ↔ t = .underlyingIOError) :
    BlockInv (endStream t code s) := by
  have hreplay := Term.replay_ne_record ht
  refine ⟨h.cap, Memory.wf_nil, noContext_leaveFrame s, ⟨?_, ?_⟩, fun _ => ?_, nofun⟩
  · simpa using ht
  · simpa [h.noCode] using hcode
  · exact ⟨.inr rfl, rfl, hhdr, by simpa [endStream] using hreplay, fun _ => rfl⟩

theorem inv_resetBlock {s : State} (hcap : 16 + (2 ^ 32 - 1) ≤ s.cfg.fbCap) : BlockInv (resetBlock s) := by
  refine ⟨hcap, Memory.wf_nil, ⟨rfl, rfl, rfl, rfl, rfl, rfl, rfl, rfl, rfl, rfl, rfl⟩, ⟨?_, ?_⟩, fun _ => ?_, nofun⟩
  · simp
  · simp
  · exact ⟨.inl rfl, rfl, .inl ⟨rfl, rfl, rfl, rfl, rfl, rfl, rfl, rfl⟩, by simp, nofun⟩

/-- `NEXT` keeps the invariant: a replay in `Done` leaves the block idle, an accepted one starts at an empty buffer and a
header without values (41 R100). -/
theorem acceptNext_keeps_inv {s t : State} (h : BlockInv s) (hs : acceptNext s = .next t) : BlockInv t := by
  obtain ⟨hcap, hwf, hctx, hterm, hidle, -⟩ := h
  have hnone : HeaderNone s.forget := ⟨rfl, rfl, rfl, rfl, rfl, rfl, rfl, rfl⟩
  obtain ⟨-, hr⟩ | ⟨hb, hf, hr⟩ | ⟨hb, hf, hr⟩ := acceptNext_cases s <;> rw [hr] at hs <;> cases hs
  · obtain ⟨-, hfb, -, -, -⟩ := hidle hb
    have hreplay := Term.replay_ne_record (hterm.1.mp hf)
    exact ⟨hcap, hwf, hctx, hterm, fun _ => ⟨.inr hf, hfb, .inl hnone, by simpa [replay] using hreplay, fun _ => rfl⟩,
      nofun⟩
  · obtain ⟨hfsm, hfb, -, -, -⟩ := hidle hb
    have hfsm : s.fsm = .awaitingHeader := hfsm.resolve_right hf
    refine ⟨hcap, hwf, hctx, hterm, nofun, fun _ => ?_⟩
    exact (busyAgrees_awaitingHeader (s := { s.forget with busy := true }) hfsm).mpr ⟨rfl, hfb, hnone⟩

/-! ### The states that read the supplier -/

/-- The supplier's stream gave out: the stream-fatal end of a state whose supplier alone has moved on. -/
def EndsStream (s t : State) : Prop :=
  ∃ x code src spos, x ≠ Term.live ∧ (code.isSome = true ↔ x = .underlyingIOError) ∧
    t = endStream x code { s with src := src, spos := spos }

theorem InNext.inv_endsStream {s t : State} (h : InNext s) (hhdr : HeaderNone s ∨ HeaderRead s) (ht : EndsStream s t) :
    BlockInv t := by
  obtain ⟨x, code, src, spos, hx, hcode, rfl⟩ := ht
  have hmoved : InNext { s with src := src, spos := spos } := { h with }
  exact hmoved.inv_endStream hhdr hx hcode

/-- State `AwaitingHeader` (41 R101), whole: 12 bytes are taken, or the stream ends, or the supplier is silent. -/
theorem awaitHeader_cases {s : State} (hcap : 12 ≤ s.cfg.fbCap) :
    (∃ b src spos, b.length = 12 ∧ awaitHeader s =
        .next { s with src := src, spos := spos, fb := s.fb.write 0 b, fsm := .haveHeader }) ∨
      (∃ t, EndsStream s t ∧ awaitHeader s = .next t) ∨ awaitHeader s = .next s := by
  unfold awaitHeader
  obtain ⟨hn, hr⟩ | ⟨-, -, hr⟩ | ⟨e, -, -, hr⟩ | ⟨-, -, hr⟩ := srcRead_cases 12 s <;> rw [hr]
  case inl =>
    have hlen : (s.src.take 12).length = 12 := by simpa using hn
    refine .inl ⟨s.src.take 12, s.src.drop 12, s.spos + 12, hlen, ?_⟩
    simp only [settle]
    rw [Op.bind_ok (memWrite_ok (by simpa only [hlen, Nat.zero_add] using hcap))]
    rfl
  case inr.inl =>
    refine .inr (.inl ?_)
    cases s.src with
    | nil => exact ⟨_, ⟨.endOfStream, none, _, _, nofun, by simp, rfl⟩, rfl⟩
    | cons b bs => exact ⟨_, ⟨.truncatedInput, none, _, _, nofun, by simp, rfl⟩, rfl⟩
  case inr.inr.inl => exact .inr (.inl ⟨_, ⟨.underlyingIOError, some e, _, _, nofun, by simp, rfl⟩, rfl⟩)
  case inr.inr.inr => exact .inr (.inr rfl)

theorem awaitHeader_keeps_inv {s t : State} (h : InNext s) (hagree : BusyAgrees s) (hf : s.fsm = .awaitingHeader)
    (hs : awaitHeader s = .next t) : BlockInv t := by
  obtain ⟨-, hfb, hnone⟩ := (busyAgrees_awaitingHeader hf).mp hagree
  have hcap := h.cap
  obtain ⟨b, src, spos, hlen, hr⟩ | ⟨u, hu, hr⟩ | hr := awaitHeader_cases (s := s) (by omega) <;> rw [hr] at hs <;>
    cases hs
  · refine InNext.inv { h with wf := Memory.wf_write s.fb 0 b h.wf, notDone := nofun } ?_
    have hcovers := Memory.write_covers (m := s.fb) (n := 0) (by rw [hfb]; rfl) b
    rw [hlen] at hcovers
    exact (busyAgrees_haveHeader rfl).mpr ⟨h.noRecord, hcovers, hnone⟩
  · exact h.inv_endsStream (.inl hnone) hu
  · exact h.inv hagree

/-- The microsecond field of an extended frame that is not cut is among the bytes that arrive (30 R61, R62). -/
theorem Covers.exists_microseconds {s : State} {len : Word} {b : Run} (h : Covers s 12)
    (hb : b.length = bodyNeed s.cfg true len) (hc : headerCut s.cfg true len = false) :
    ∃ m, (s.fb.write 12 b).readRun 12 4 = some m := by
  have hwhole : Covers { s with fb := s.fb.write 12 b } (frameLen s.cfg true len) := by
    rw [← twelve_add_bodyNeed, ← hb]
    exact Memory.write_covers h b
  exact hwhole.exists_readRun (microseconds_in_frame hc)

/-- What state `AwaitingBody` does with its bytes once they are there (41 R103): they join the header in `FB`, and `TS_USEC` and
`TS` get values unless the microsecond field is cut (assumption 12). -/
theorem takeBody_cases {s : State} {sec len : Word} {et : Bool} {b : Run}
    (hcap : 16 + (2 ^ 32 - 1) ≤ s.cfg.fbCap) (hcovers : Covers s 12) (hsec : s.tsSec = some sec)
    (het : s.et = some et) (hlen : s.len = some len) (hb : b.length = bodyNeed s.cfg et len) :
    (headerCut s.cfg et len = true ∧ takeBody b s = .ok () { s with fb := s.fb.write 12 b, fsm := .dispatching }) ∨
      (headerCut s.cfg et len = false ∧ ∃ usec ts, takeBody b s = .ok ()
        { s with fb := s.fb.write 12 b, tsUsec := some usec, ts := some ts, fsm := .dispatching }) := by
  have hsize : 12 + b.length = frameLen s.cfg et len := by rw [hb, twelve_add_bodyNeed]
  have hle := frameLen_le s.cfg et len
  obtain ⟨hcut, hwhole⟩ := readTimestamp_eq (t := { s with fb := s.fb.write 12 b }) het hlen hsec
  unfold takeBody
  rw [Op.bind_ok (memWrite_ok (by omega))]
  cases hc : headerCut s.cfg et len with
  | true => exact .inl ⟨rfl, by rw [Op.bind_ok (hcut hc)]; rfl⟩
  | false =>
    obtain ⟨m, hm⟩ : ∃ m, et = true → (s.fb.write 12 b).readRun 12 4 = some m := by
      cases et with
      | false => exact ⟨[], nofun⟩
      | true =>
        obtain ⟨m, hm⟩ := hcovers.exists_microseconds hb hc
        exact ⟨m, fun _ => hm⟩
    exact .inr ⟨rfl, _, _, by rw [Op.bind_ok (hwhole hc m hm _ rfl)]; rfl⟩

/-- State `AwaitingBody` (41 R103), whole: the bytes the frame lacks are taken, or the stream ends, or the supplier is
silent. -/
theorem awaitBody_cases {s : State} {len : Word} {et : Bool} (het : s.et = some et) (hlen : s.len = some len) :
    (∃ b src spos, b.length = bodyNeed s.cfg et len ∧
        awaitBody s = settle (takeBody b { s with src := src, spos := spos })) ∨
      (∃ t, EndsStream s t ∧ awaitBody s = .next t) ∨ awaitBody s = .next s := by
  have hneed : readNeed s = .ok (bodyNeed s.cfg et len) s := by
    rw [readNeed, Op.bind_ok (askCfg_apply _ _), Op.bind_ok (readReq_some het), Op.bind_ok (readReq_some hlen)]
    rfl
  unfold awaitBody
  rw [hneed, outcome]
  obtain ⟨hn, hr⟩ | ⟨-, -, hr⟩ | ⟨e, -, -, hr⟩ | ⟨-, -, hr⟩ := srcRead_cases (bodyNeed s.cfg et len) s <;>
    simp only [hr]
  case inl => exact .inl ⟨_, _, _, by simpa using hn, rfl⟩
  case inr.inl => exact .inr (.inl ⟨_, ⟨.truncatedInput, none, _, _, nofun, by simp, rfl⟩, rfl⟩)
  case inr.inr.inl => exact .inr (.inl ⟨_, ⟨.underlyingIOError, some e, _, _, nofun, by simp, rfl⟩, rfl⟩)
  case inr.inr.inr => exact .inr (.inr trivial)

/-- A frame whose bytes have arrived is whole in `FB` and meets the invariant (41 R103). -/
theorem takeBody_keeps_inv {s t : State} {b : Run} {et : Bool} {len : Word} (h : InNext s) (hagree : BusyAgrees s)
    (hf : s.fsm = .awaitingBody) (het : s.et = some et) (hlen : s.len = some len)
    (hb : b.length = bodyNeed s.cfg et len) (hs : settle (takeBody b s) = .next t) : BlockInv t := by
  obtain ⟨-, hcovers, hread, husec, hts⟩ := (busyAgrees_awaitingBody hf).mp hagree
  obtain ⟨sec, -, -, -, hsec, -⟩ := hread.values
  have hwf := Memory.wf_write s.fb 12 b h.wf
  have hwhole : (s.fb.write 12 b).map Prod.fst = List.range (frameSize s) := by
    rw [Memory.write_covers hcovers, hb, twelve_add_bodyNeed, frameSize_eq het hlen]
  have hcut := isCut_eq het hlen
  obtain ⟨hc, hr⟩ | ⟨hc, usec, ts, hr⟩ := takeBody_cases h.cap hcovers hsec het hlen hb <;> rw [hr] at hs <;> cases hs
  · refine InNext.inv { h with wf := hwf, notDone := nofun } ((busyAgrees_dispatching rfl).mpr ?_)
    refine ⟨h.noRecord, hwhole, hread, ?_, ?_⟩
    · show s.tsUsec.isSome = !isCut s
      simp [husec, hcut, hc]
    · show s.ts.isSome = !isCut s
      simp [hts, hcut, hc]
  · refine InNext.inv { h with wf := hwf, notDone := nofun } ((busyAgrees_dispatching rfl).mpr ?_)
    have hnc : true = !isCut s := by simp [hcut, hc]
    exact ⟨h.noRecord, hwhole, hread, hnc, hnc⟩

theorem awaitBody_keeps_inv {s t : State} (h : InNext s) (hagree : BusyAgrees s) (hf : s.fsm = .awaitingBody)
    (hs : awaitBody s = .next t) : BlockInv t := by
  obtain ⟨-, -, hread, -, -⟩ := (busyAgrees_awaitingBody hf).mp hagree
  obtain ⟨-, typ, -, len, -, -, -, hlen, het, -⟩ := hread.values
  obtain ⟨b, src, spos, hb, hr⟩ | ⟨u, hu, hr⟩ | hr := awaitBody_cases het hlen <;> rw [hr] at hs
  · have hmoved : InNext { s with src := src, spos := spos } := { h with }
    exact takeBody_keeps_inv hmoved hagree hf het hlen hb hs
  · cases hs
    exact h.inv_endsStream (.inr hread) hu
  · cases hs
    exact h.inv hagree

/-! ### The header decode -/

/-- State `HaveHeader` (41 R102): whatever the 12 bytes are, the six registers hold a header. -/
theorem haveHeader_next {s : State} (hcovers : Covers s 12) : ∃ sec typ sub len, haveHeader s = .next { s with
    tsSec := some sec, typ := some typ, subtyp := some sub, len := some len, et := some (isEt s.cfg typ),
    hlen := some (headerLen (isEt s.cfg typ)), fsm := .awaitingBody } := by
  obtain ⟨sec, hsec⟩ := hcovers.exists_readRun (a := 0) (k := 4) (by omega)
  obtain ⟨typ, htyp⟩ := hcovers.exists_readRun (a := 4) (k := 2) (by omega)
  obtain ⟨sub, hsub⟩ := hcovers.exists_readRun (a := 6) (k := 2) (by omega)
  obtain ⟨len, hlen⟩ := hcovers.exists_readRun (a := 8) (k := 4) (by omega)
  refine ⟨BitVec.ofNat 32 (be sec), BitVec.ofNat 16 (be typ), BitVec.ofNat 16 (be sub), BitVec.ofNat 32 (be len), ?_⟩
  rw [haveHeader, readHeader, Op.bind_ok (memRead_some hsec), Op.bind_ok (memRead_some htyp),
    Op.bind_ok (memRead_some hsub), Op.bind_ok (memRead_some hlen)]
  rfl

theorem haveHeader_keeps_inv {s t : State} (h : InNext s) (hagree : BusyAgrees s) (hf : s.fsm = .haveHeader)
    (hs : haveHeader s = .next t) : BlockInv t := by
  obtain ⟨-, hcovers, -, -, -, -, -, -, husec, hts⟩ := (busyAgrees_haveHeader hf).mp hagree
  obtain ⟨sec, typ, sub, len, hr⟩ := haveHeader_next hcovers
  rw [hr] at hs
  cases hs
  refine InNext.inv { h with notDone := nofun } ((busyAgrees_awaitingBody rfl).mpr ?_)
  exact ⟨h.noRecord, hcovers, ⟨rfl, rfl, rfl, rfl, rfl, rfl⟩, husec, hts⟩

/-! ### The dispatch -/

/-- Every row of the dispatch map names a class (30 R63). -/
theorem frameRows_recordClass (cfg : Cfg) (sub : Half) :
    (frameRows cfg).all (fun r => (r.instr sub).recordClass.isSome) = true := rfl

/-- What the decoder reads at a frame is a frame instruction. -/
theorem decode_frame_recordClass {cfg : Cfg} {bs more : Run} {i : Instr} (h : decode cfg .frame bs = .ok (i, more)) :
    ∃ c, i.recordClass = some c := by
  obtain ⟨typ, sub, hi⟩ : ∃ typ sub, decodeFrame cfg typ sub = some i := by
    match bs with
    | [] | [_] | [_, _] | [_, _, _] => cases h
    | a :: b :: c :: d :: rest =>
      simp only [decode] at h
      split at h
      · next hd => cases h; exact ⟨_, _, hd⟩
      · cases h
  obtain ⟨r, hr, rfl⟩ := Option.map_eq_some_iff.mp hi
  have hmem := List.mem_of_find?_eq_some hr
  exact Option.isSome_iff_exists.mp (List.all_eq_true.mp (frameRows_recordClass cfg sub) r hmem)

/-- The fetch of a frame whose header is read (41 R104): a cut header, no row, or a frame instruction. It writes nothing. -/
theorem fetchFrame_cases {s : State} (h : HeaderRead s) :
    fetchFrame s = .error (.raised .truncatedInput) s ∨ fetchFrame s = .ok .unsupported s ∨
      ∃ i c, i.recordClass = some c ∧ fetchFrame s = .ok (.instr i) s := by
  obtain ⟨-, typ, sub, len, -, htyp, hsub, hlen, het, -⟩ := h.values
  unfold fetchFrame
  rw [Op.bind_ok (readHeaderCut_some het hlen)]
  split
  · exact .inl rfl
  · rw [Op.bind_ok (askCfg_apply _ _), Op.bind_ok (readReq_some htyp), Op.bind_ok (readReq_some hsub)]
    cases hd : decode (id s.cfg) .frame (toBe 2 typ.toNat ++ toBe 2 sub.toNat) with
    | error e => exact .inr (.inl rfl)
    | ok p =>
      obtain ⟨c, hc⟩ := decode_frame_recordClass hd
      exact .inr (.inr ⟨p.1, c, hc, rfl⟩)

/-- A next state of `Dispatching` on a frame is the end of that frame (41 R104). -/
theorem dispatchStep_next_endFrame {s t : State} (h : HeaderRead s) (hfocus : s.focus = .frame)
    (hs : dispatchStep s = .next t) : ∃ k r, t = endFrame k r s ∧ (r.isSome = true ↔ k = .record) := by
  have hfetch : fetch s = fetchFrame s := by simp only [fetch, hfocus]
  unfold dispatchStep at hs
  obtain hr | hr | ⟨i, c, hi, hr⟩ := fetchFrame_cases h <;> rw [hfetch, hr] at hs
  · cases hs
    exact ⟨.truncatedInput, none, rfl, by simp⟩
  · cases hs
    exact ⟨.unsupportedRecord, none, rfl, by simp⟩
  · exact exec_next_endFrame hi hs

theorem dispatchStep_keeps_inv {s t : State} (h : InNext s) (hagree : BusyAgrees s) (hf : s.fsm = .dispatching)
    (hs : dispatchStep s = .next t) : BlockInv t := by
  obtain ⟨-, -, hread, -, -⟩ := (busyAgrees_dispatching hf).mp hagree
  obtain ⟨-, -, -, -, -, -, -, -, -, hfocus, -⟩ := h.context
  obtain ⟨k, r, rfl, hr⟩ := dispatchStep_next_endFrame hread hfocus hs
  exact h.inv_endFrame hread hr

/-! ### A step -/

theorem blockStep_keeps_inv {s t : State} (h : BlockInv s) (hb : s.busy = true) (hs : blockStep s = .next t) :
    BlockInv t := by
  obtain ⟨hin, hagree⟩ := (blockInv_iff_of_busy hb).mp h
  unfold blockStep at hs
  split at hs
  · next hf => exact awaitHeader_keeps_inv hin hagree hf hs
  · next hf => exact haveHeader_keeps_inv hin hagree hf hs
  · next hf => exact awaitBody_keeps_inv hin hagree hf hs
  · next hf => exact dispatchStep_keeps_inv hin hagree hf hs
  · next hf => exact absurd hf hin.notDone

/-- Settles O21, by what the caller's act makes of the step: the block runs, or nothing but the act is gone, or `NEXT`, or a
reset. The invariant says nothing of the caller's acts, so a state with one gone meets it as before. -/
theorem stepKeepsInv : Obligations.StepKeepsInv := by
  intro s t h hs
  unfold step at hs
  obtain ⟨cs, hb, hr⟩ | ⟨cs, -, hr⟩ | ⟨cs, -, hr⟩ | ⟨cs, -, hr⟩ | ⟨r, cs, -, ⟨-, hr⟩ | ⟨-, hr⟩⟩ :=
    hearCaller_cases s <;> simp only [hr] at hs
  · exact blockStep_keeps_inv (s := { s with calls := cs }) h hb hs
  · cases hs
    exact h
  · exact acceptNext_keeps_inv (s := { s with calls := cs }) h hs
  · cases hs
    exact inv_resetBlock h.1
  · cases hs
    exact h
  · cases hs

end Sys2Proof.Machine

/-! PROOFS. The body sequencers against the parsers of 41 R110: from what the entry of a class establishes, each operation of a
sequencer gives what its parser makes of the bytes left, so a sequencer on a frame ready for dispatch delivers the parser's
Record or raises the parser's error, and stops in no other way. -/

namespace Sys2Proof.Machine

open Parse (Parser)

/-! ### What a sequencer relies on -/

/-- What is known inside a sequencer: the configuration, the header, and the columns of 30 R63. A width that is `none` is one
of which nothing is known. -/
structure BodyContext where
  cfg : Cfg
  hdr : FrameHdr
  asw : Option Nat
  afw : Option Nat
  ap : Bool

/-- The registers hold what the context says, and `w` are the bytes between the cursor and its limit. -/
structure Decoding (k : BodyContext) (s : State) (w : Run) : Prop where
  cfg : s.cfg = k.cfg
  ts : s.ts = some k.hdr.timestamp
  typ : s.typ = some k.hdr.type
  subtyp : s.subtyp = some k.hdr.subtype
  asw : ∀ n, k.asw = some n → s.asw = some n
  afw : ∀ n, k.afw = some n → s.afw = some n
  ap : s.ap = some k.ap
  left : Left s w

theorem Decoding.of_quiet {k : BodyContext} {s t : State} {w w' : Run} (h : Decoding k s w) (hq : Quiet s t)
    (hl : Left t w') : Decoding k t w' := by
  obtain ⟨hframe, -, hasw, hafw, hap⟩ := hq
  obtain ⟨hcfg, hts, htyp, hsub⟩ := leaveFrame_proj hframe
  exact ⟨hcfg.trans h.cfg, hts.trans h.ts, htyp.trans h.typ, hsub.trans h.subtyp, fun n hn => hasw.trans (h.asw n hn),
    fun n hn => hafw.trans (h.afw n hn), hap.trans h.ap, hl⟩

/-- From one context to another the operation follows the parser: the same value and the same bytes left, or the same kind
raised; what lies outside the decode stays. -/
def FollowsIn {α : Type} (k k' : BodyContext) (x : Op α) (p : Parser α) : Prop :=
  ∀ ⦃s : State⦄ ⦃w : Run⦄, Decoding k s w →
    (∃ a t w', p w = .ok (a, w') ∧ x s = .ok a t ∧ Decoding k' t w' ∧ t.leaveFrame = s.leaveFrame) ∨
      ∃ e t, p w = .error e ∧ x s = .error (.raised e) t ∧ t.leaveFrame = s.leaveFrame

/-- The operation takes no byte and gives `v`: a register read, or the choice of a width. -/
def YieldsIn {α : Type} (k k' : BodyContext) (x : Op α) (v : α) : Prop :=
  ∀ ⦃s : State⦄ ⦃w : Run⦄, Decoding k s w → ∃ t, x s = .ok v t ∧ Decoding k' t w ∧ t.leaveFrame = s.leaveFrame

section Combinators

variable {α β : Type} {k k' k'' : BodyContext}

theorem FollowsIn.bind {x : Op α} {p : Parser α} {f : α → Op β} {g : α → Parser β} (hx : FollowsIn k k' x p)
    (hf : ∀ a, FollowsIn k' k'' (f a) (g a)) : FollowsIn k k'' (x >>= f) (p >>= g) := by
  intro s w h
  rw [Parse.bind_apply]
  obtain ⟨a, t, w', hp, hs, ht, hout⟩ | ⟨e, t, hp, hs, hout⟩ := hx h <;> rw [hp]
  · rw [Op.bind_ok hs, ← hout]
    exact hf a ht
  · exact .inr ⟨e, t, rfl, Op.bind_error hs, hout⟩

/-- An operation that takes no byte has no counterpart in the parser. -/
theorem FollowsIn.after {x : Op α} {v : α} {f : α → Op β} {p : Parser β} (hx : YieldsIn k k' x v)
    (hf : FollowsIn k' k'' (f v) p) : FollowsIn k k'' (x >>= f) p := by
  intro s w h
  obtain ⟨t, hs, ht, hout⟩ := hx h
  rw [Op.bind_ok hs, ← hout]
  exact hf ht

theorem FollowsIn.weaken {x : Op α} {p : Parser α} (hx : FollowsIn k k' x p)
    (hw : ∀ s w, Decoding k' s w → Decoding k'' s w) : FollowsIn k k'' x p := by
  intro s w h
  obtain ⟨a, t, w', hp, hs, ht, hout⟩ | herr := hx h
  · exact .inl ⟨a, t, w', hp, hs, hw _ _ ht, hout⟩
  · exact .inr herr

/-- An operation that needs only the bytes left and the configuration follows its parser in every context. -/
theorem FollowsIn.of_follows {x : Op α} {p : Parser α}
    (h : ∀ s w, Left s w → s.cfg = k.cfg → Follows s w x p) : FollowsIn k k x p := by
  intro s w hd
  have hf := h s w hd.left hd.cfg
  unfold Follows at hf
  cases hp : p w with
  | error e =>
    simp only [hp] at hf
    obtain ⟨t, hs, hout⟩ := hf
    exact .inr ⟨e, t, rfl, hs, hout⟩
  | ok r =>
    simp only [hp] at hf
    obtain ⟨t, hs, hl, hq⟩ := hf
    exact .inl ⟨r.1, t, r.2, rfl, hs, hd.of_quiet hq hl, hq.1⟩

theorem pure_followsIn (a : α) : FollowsIn k k (pure a : Op α) (pure a) :=
  .of_follows fun _ _ h _ => follows_pure h a

theorem raise_followsIn (e : Raise) : FollowsIn k k' (raise e : Op α) (Parse.fail e) :=
  fun s _ _ => .inr ⟨e, s, rfl, rfl, rfl⟩

theorem readReq_yieldsIn (r : RegName) {get : State → Option α} {v : α}
    (h : ∀ s w, Decoding k s w → get s = some v) : YieldsIn k k (readReq r get) v :=
  fun s w hd => ⟨s, readReq_some (h s w hd), hd, rfl⟩

theorem repeated_followsIn {x : Op α} {p : Parser α} (h : FollowsIn k k x p) :
    ∀ n, FollowsIn k k (repeated n x) (Parse.repeated n p)
  | 0 => pure_followsIn _
  | n + 1 => h.bind fun _ => (repeated_followsIn h n).bind fun _ => pure_followsIn _

end Combinators

/-! ### The cursor operations, the registers and the header -/

section Operations

variable {k : BodyContext}

theorem bytes_followsIn (n : Nat) : FollowsIn k k (bytes n) (Parse.take n) :=
  .of_follows fun _ _ h _ => follows_bytes n h

theorem u8_followsIn : FollowsIn k k u8 Parse.u8 := .of_follows fun _ _ h _ => follows_u8 h

theorem u16_followsIn : FollowsIn k k u16 Parse.u16 := .of_follows fun _ _ h _ => follows_u16 h

theorem u32_followsIn : FollowsIn k k u32 Parse.u32 := .of_follows fun _ _ h _ => follows_u32 h

theorem addr_followsIn {n : Nat} (hn : n = 4 ∨ n = 16) : FollowsIn k k (addr n) (Parse.take n) :=
  .of_follows fun _ _ h _ => follows_addr hn h

theorem rest_followsIn : FollowsIn k k rest Parse.all := .of_follows fun _ _ h _ => follows_rest h

theorem asNumber_followsIn (wide : Bool) :
    FollowsIn k k (asNumber (if wide then 4 else 2)) (Parse.asNumber wide) :=
  .of_follows fun _ _ h _ => follows_asNumber wide h

theorem readAsw_yieldsIn {n : Nat} (h : k.asw = some n) : YieldsIn k k (readReq .asw State.asw) n :=
  readReq_yieldsIn _ fun _ _ hd => hd.asw n h

theorem readAfw_yieldsIn {n : Nat} (h : k.afw = some n) : YieldsIn k k (readReq .afw State.afw) n :=
  readReq_yieldsIn _ fun _ _ hd => hd.afw n h

/-- `hdr` of every Record is read from registers that hold values (10_state R22). -/
theorem frameHdr_yieldsIn : YieldsIn k k frameHdr k.hdr := by
  intro s w hd
  refine ⟨s, ?_, hd, rfl⟩
  rw [frameHdr, Op.bind_ok (readReq_some hd.ts), Op.bind_ok (readReq_some hd.typ), Op.bind_ok (readReq_some hd.subtyp)]
  rfl

/-- The selector's width is what `AFW` holds afterwards (30 R71). -/
theorem selectAf_yieldsIn {af : Half} {n : Nat} (h : afWidth k.cfg af = some n) :
    YieldsIn k { k with afw := some n } (selectAf af) () := by
  intro s w hd
  refine ⟨_, selectAf_some (hd.cfg ▸ h), ?_, rfl⟩
  exact ⟨hd.cfg, hd.ts, hd.typ, hd.subtyp, hd.asw, fun _ hn => hn, hd.ap, hd.left⟩

/-- An unknown selector is `MalformedRecord` (60 R186). -/
theorem selectAf_none_followsIn {k' : BodyContext} {β : Type} {af : Half} {f : Unit → Op β}
    (h : afWidth k.cfg af = none) : FollowsIn k k' (selectAf af >>= f) (Parse.fail .malformedRecord) :=
  fun s _ hd => .inr ⟨.malformedRecord, s, rfl, Op.bind_error (selectAf_none (hd.cfg ▸ h)), rfl⟩

/-- A known selector takes no byte; what follows runs at its width, and `AFW` is not looked at again (46 R160). -/
theorem selectAf_some_followsIn {β : Type} {af : Half} {n : Nat} {f : Nat → Op β} {p : Parser β}
    (h : afWidth k.cfg af = some n) (hf : FollowsIn { k with afw := some n } { k with afw := some n } (f n) p) :
    FollowsIn k { k with afw := none } (selectAf af >>= fun _ => readReq .afw State.afw >>= f) p :=
  .after (selectAf_yieldsIn h) <| .after (readAfw_yieldsIn rfl) <| hf.weaken fun _ _ hd => { hd with afw := nofun }

end Operations

/-! ### The units -/

section Units

variable {k : BodyContext}

theorem attrs_followsIn (n asw : Nat) : FollowsIn k k (attrs n asw) (Parse.attrs k.cfg asw n) :=
  .of_follows fun _ _ h hcfg => hcfg ▸ follows_attrs asw n h

theorem nlri_followsIn (afw : Nat) : FollowsIn k k (nlri afw) (Parse.pfx k.cfg afw) :=
  .of_follows fun _ _ h hcfg => hcfg ▸ follows_nlri afw h

theorem peer_followsIn : FollowsIn k k peer Parse.peer := .of_follows fun _ _ h _ => follows_peer h

theorem pathId_followsIn : FollowsIn k k pathId
    (if k.ap then (do let p ← Parse.u32; pure (some p)) else pure none) := by
  refine .after (readReq_yieldsIn _ fun _ _ hd => hd.ap) ?_
  split
  · exact u32_followsIn.bind fun _ => pure_followsIn _
  · exact pure_followsIn _

/-- The same with what follows it in both branches, which is how the parser of a RIBEntry is written. -/
theorem pathId_bind_followsIn {k' : BodyContext} {β : Type} {f : Option Word → Op β} {g : Option Word → Parser β}
    (h : ∀ pid, FollowsIn k k' (f pid) (g pid)) : FollowsIn k k' (pathId >>= f)
      (if k.ap then (do let p ← Parse.u32; pure (some p)) >>= g else pure none >>= g) := by
  have hbind := pathId_followsIn.bind h
  rwa [apply_ite (· >>= g)] at hbind

theorem ribEntry_followsIn : FollowsIn k k ribEntry (Parse.ribEntry k.cfg k.ap) :=
  u16_followsIn.bind fun _ =>
  u32_followsIn.bind fun _ =>
  pathId_bind_followsIn fun _ =>
  u16_followsIn.bind fun _ =>
  (attrs_followsIn _ _).bind fun _ => pure_followsIn _

/-- `B4HEAD()` follows its parser (46 R160); it overwrites `AFW`, which nothing after it reads. -/
theorem b4Head_followsIn {wide : Bool} (hasw : k.asw = some (if wide then 4 else 2)) :
    FollowsIn k { k with afw := none } b4Head (Parse.b4Head k.cfg wide) := by
  refine .after (readAsw_yieldsIn hasw) <| (asNumber_followsIn wide).bind fun _ =>
    (asNumber_followsIn wide).bind fun _ => u16_followsIn.bind fun _ => u16_followsIn.bind fun af => ?_
  cases haf : afWidth k.cfg af with
  | none => exact selectAf_none_followsIn haf
  | some n =>
    have hn := afWidth_legal haf
    exact selectAf_some_followsIn haf <| (addr_followsIn hn).bind fun _ => (addr_followsIn hn).bind fun _ =>
      pure_followsIn _

end Units

/-! ### The body sequencers -/

section Sequencers

variable {k : BodyContext}

theorem tableDump_followsIn {n : Nat} (hafw : k.afw = some n) (hn : n = 4 ∨ n = 16) :
    FollowsIn k k tableDump (Parse.tableDump k.cfg n k.hdr) :=
  u16_followsIn.bind fun _ =>
  u16_followsIn.bind fun _ =>
  .after (readAfw_yieldsIn hafw) <|
  (addr_followsIn hn).bind fun _ =>
  u8_followsIn.bind fun _ =>
  u8_followsIn.bind fun _ =>
  u32_followsIn.bind fun _ =>
  (addr_followsIn hn).bind fun _ =>
  (asNumber_followsIn false).bind fun _ =>
  u16_followsIn.bind fun _ =>
  (attrs_followsIn _ _).bind fun _ =>
  .after frameHdr_yieldsIn <| pure_followsIn _

theorem peerIndexTable_followsIn : FollowsIn k k peerIndexTable (Parse.peerIndexTable k.hdr) :=
  u32_followsIn.bind fun _ =>
  u16_followsIn.bind fun _ =>
  (bytes_followsIn _).bind fun _ =>
  u16_followsIn.bind fun _ =>
  (repeated_followsIn peer_followsIn _).bind fun _ =>
  .after frameHdr_yieldsIn <| pure_followsIn _

theorem rib_followsIn {n : Nat} (hafw : k.afw = some n) : FollowsIn k k rib (Parse.rib k.cfg n k.ap k.hdr) :=
  u32_followsIn.bind fun _ =>
  .after (readAfw_yieldsIn hafw) <|
  (nlri_followsIn n).bind fun _ =>
  u16_followsIn.bind fun _ =>
  (repeated_followsIn ribEntry_followsIn _).bind fun _ =>
  .after frameHdr_yieldsIn <| pure_followsIn _

theorem ribGeneric_followsIn :
    FollowsIn k { k with afw := none } ribGeneric (Parse.ribGeneric k.cfg k.ap k.hdr) := by
  refine u32_followsIn.bind fun _ => u16_followsIn.bind fun afi => u8_followsIn.bind fun _ => ?_
  cases haf : afWidth k.cfg afi with
  | none => exact selectAf_none_followsIn haf
  | some n =>
    exact selectAf_some_followsIn haf <| (nlri_followsIn n).bind fun _ => u16_followsIn.bind fun _ =>
      (repeated_followsIn ribEntry_followsIn _).bind fun _ => .after frameHdr_yieldsIn <| pure_followsIn _

theorem stateChange_followsIn {wide : Bool} (hasw : k.asw = some (if wide then 4 else 2)) :
    FollowsIn k { k with afw := none } stateChange (Parse.stateChange k.cfg wide k.hdr) :=
  (b4Head_followsIn hasw).bind fun _ =>
  u16_followsIn.bind fun _ =>
  u16_followsIn.bind fun _ =>
  .after frameHdr_yieldsIn <| pure_followsIn _

/-- Whatever `BgpMsgDecode` answers, machine and parser put the same question to it (46 R162, R163). -/
theorem message_followsIn {wide : Bool} (hasw : k.asw = some (if wide then 4 else 2)) :
    FollowsIn k { k with afw := none } message (Parse.message k.cfg wide k.hdr) := by
  refine (b4Head_followsIn hasw).bind fun head => rest_followsIn.bind fun payload =>
    .after (readAsw_yieldsIn hasw) ?_
  cases Config.bgpMsgDecode payload (if wide then 4 else 2) head.af with
  | none => exact raise_followsIn _
  | some msg => exact .after frameHdr_yieldsIn <| pure_followsIn _

theorem ospfv2_followsIn : FollowsIn k k ospfv2 (Parse.ospfv2 k.hdr) :=
  (addr_followsIn (.inl rfl)).bind fun _ =>
  (addr_followsIn (.inl rfl)).bind fun _ =>
  rest_followsIn.bind fun _ =>
  .after frameHdr_yieldsIn <| pure_followsIn _

theorem ospfv3_followsIn : FollowsIn k { k with afw := none } ospfv3 (Parse.ospfv3 k.cfg k.hdr) := by
  refine u16_followsIn.bind fun af => ?_
  cases haf : afWidth k.cfg af with
  | none => exact selectAf_none_followsIn haf
  | some n =>
    have hn := afWidth_legal haf
    exact selectAf_some_followsIn haf <| (addr_followsIn hn).bind fun _ => (addr_followsIn hn).bind fun _ =>
      rest_followsIn.bind fun _ => .after frameHdr_yieldsIn <| pure_followsIn _

theorem isis_followsIn : FollowsIn k k isis (Parse.isis k.hdr) :=
  rest_followsIn.bind fun _ => .after frameHdr_yieldsIn <| pure_followsIn _

end Sequencers

/-! ### A frame instruction -/

/-- The context at the entry of a class: the columns of its row of 30 R63. -/
def entryContext (cfg : Cfg) (hdr : FrameHdr) (c : RecordClass) : BodyContext :=
  ⟨cfg, hdr, classAsw c, classAfw c, classAp c⟩

/-- Each class's sequencer follows the parser of its body, at the widths of its row. -/
theorem sequencer_followsIn (cfg : Cfg) (hdr : FrameHdr) (c : RecordClass) :
    ∃ k', FollowsIn (entryContext cfg hdr c) k' (sequencer c) (Parse.body cfg c hdr) := by
  cases c with
  | tdV4 => exact ⟨_, tableDump_followsIn rfl (.inl rfl)⟩
  | tdV6 => exact ⟨_, tableDump_followsIn rfl (.inr rfl)⟩
  | td2Pit => exact ⟨_, peerIndexTable_followsIn⟩
  | td2RibV4u | td2RibV4m | td2RibV6u | td2RibV6m | td2RibV4uAp | td2RibV4mAp | td2RibV6uAp | td2RibV6mAp =>
    exact ⟨_, rib_followsIn rfl⟩
  | td2Ribg | td2RibgAp => exact ⟨_, ribGeneric_followsIn⟩
  | b4Sc => exact ⟨_, stateChange_followsIn (wide := false) rfl⟩
  | b4Sc4 => exact ⟨_, stateChange_followsIn (wide := true) rfl⟩
  | b4Msg => exact ⟨_, message_followsIn (wide := false) rfl⟩
  | b4Msg4 => exact ⟨_, message_followsIn (wide := true) rfl⟩
  | ospf2 => exact ⟨_, ospfv2_followsIn⟩
  | ospf3 => exact ⟨_, ospfv3_followsIn⟩
  | isis => exact ⟨_, isis_followsIn⟩

/-- The columns that the entry of a class writes (41 R104, 30 R63). -/
theorem enterClass_columns {s t : State} {hdr : FrameHdr} {body : Run} {c : RecordClass} (h : Ready s hdr body)
    (hs : enterClass c s = .ok () t) : t.asw = classAsw c ∧ t.afw = classAfw c ∧ t.ap = some (classAp c) := by
  obtain ⟨-, -, -, et, het, hhlen, hlen, -⟩ := h
  obtain ⟨n, hn, -⟩ := Option.map_eq_some_iff.mp hlen
  rw [enterClass, Op.bind_ok (readReq_some hhlen), Op.bind_ok (readReq_some hn),
    Op.bind_ok (readCountsUs_some het)] at hs
  cases hs
  exact ⟨rfl, rfl, rfl⟩

theorem enterClass_decoding {s : State} {hdr : FrameHdr} {body : Run} (c : RecordClass) (h : Ready s hdr body) :
    ∃ t, enterClass c s = .ok () t ∧ Decoding (entryContext s.cfg hdr c) t body ∧ t.leaveFrame = s.leaveFrame := by
  obtain ⟨t, hs, hleft, hout, -⟩ := enterClass_ready c h
  obtain ⟨hasw, hafw, hap⟩ := enterClass_columns h hs
  obtain ⟨hcfg, hts, htyp, hsub⟩ := leaveFrame_proj hout
  obtain ⟨rts, rtyp, rsub, -⟩ := h
  exact ⟨t, hs, ⟨hcfg, hts.trans rts, htyp.trans rtyp, hsub.trans rsub, fun _ hn => hasw.trans hn,
    fun _ hn => hafw.trans hn, hap, hleft⟩, hout⟩

/-- A frame instruction on a frame ready for dispatch concludes it with what the parser of its class makes of the body: a
Record is delivered or an error taken, whatever the bytes are (41 R104, R110). -/
theorem exec_ready {i : Instr} {c : RecordClass} {s : State} {hdr : FrameHdr} {body : Run}
    (hi : i.recordClass = some c) (h : Ready s hdr body) :
    exec i s = .next (concluded (Parse.body s.cfg c hdr body) s) := by
  obtain ⟨t, henter, hd, hout⟩ := enterClass_decoding c h
  obtain ⟨k', hf⟩ := sequencer_followsIn s.cfg hdr c
  rw [exec_eq_runClass hi, runClass, Op.bind_ok henter]
  obtain ⟨r, u, w', hp, hu, -, hu'⟩ | ⟨e, u, hp, hu, hu'⟩ := hf hd <;> rw [hp, hu] <;>
    exact congrArg Host.Outcome.next (endFrame_congr _ _ _ _ (hu'.trans hout))

end Sys2Proof.Machine

/-! PROOFS. No step faults from the invariant (20 R44, 40 R90, 44 R132): inside a `NEXT` each state of the stream reader comes
to a next state, because the buffer covers what is read and every register read holds a value. -/

namespace Sys2Proof.Machine

/-- A frame that is not cut is its header, 12 or 16 bytes, and a body of which `LEN` counts the bytes: in the variant of 30 R62
together with the four of the microsecond field. -/
theorem exists_bodyLength {cfg : Cfg} {et : Bool} {len : Word} (h : headerCut cfg et len = false) :
    ∃ n, len.toNat = n + (if et && cfg.lenCountsUs then 4 else 0) ∧ (if et then 16 else 12) + n = frameLen cfg et len := by
  unfold headerCut countsUs at h
  unfold frameLen headerLen countsUs
  by_cases hus : (et && cfg.lenCountsUs) = true
  · obtain ⟨rfl, hv⟩ := Bool.and_eq_true_iff.mp hus
    have hfour : 4 ≤ len.toNat := by simpa [hv] using h
    exact ⟨len.toNat - 4, by simp [hv]; omega, by simp [hv]; omega⟩
  · exact ⟨len.toNat, by simp [hus], by simp [Bool.and_comm, hus]⟩

/-- A whole frame of the invariant, its header not cut, is ready for dispatch (41 R103, R104). -/
theorem exists_ready {s : State} (h : BusyAgrees s) (hf : s.fsm = .dispatching) (hcut : isCut s = false) :
    ∃ hdr body, Ready s hdr body := by
  obtain ⟨-, hcovers, hread, -, hts⟩ := (busyAgrees_dispatching hf).mp h
  obtain ⟨-, typ, sub, len, -, htyp, hsub, hlen, het, hhlen⟩ := hread.values
  obtain ⟨ts, hts⟩ := Option.isSome_iff_exists.mp (hts.trans (by rw [hcut]; rfl))
  rw [isCut_eq het hlen] at hcut
  rw [frameSize_eq het hlen] at hcovers
  obtain ⟨n, hn, hsize⟩ := exists_bodyLength hcut
  obtain ⟨body, hbody⟩ := hcovers.exists_readRun hsize.le
  have hl := Memory.readRun_length _ _ _ _ hbody
  refine ⟨⟨ts, typ, sub⟩, body, hts, htyp, hsub, isEt s.cfg typ, het, hhlen, ?_, ?_⟩
  · rw [hlen, hl, ← hn]; rfl
  · rw [hl]; exact hbody

/-- The variant's cut header is met before the pair is looked at (30 R62, assumption 12). -/
theorem fetchFrame_of_isCut {s : State} (h : HeaderRead s) (hcut : isCut s = true) :
    fetchFrame s = .error (.raised .truncatedInput) s := by
  obtain ⟨-, typ, -, len, -, -, -, hlen, het, -⟩ := h.values
  rw [isCut_eq het hlen] at hcut
  rw [fetchFrame, Op.bind_ok (readHeaderCut_some het hlen), if_pos hcut]
  rfl

/-- State `Dispatching` (41 R104): a cut header is an abort, a (type, subtype) of no row is `UnsupportedRecord`, and a class's
sequencer runs on a frame that is all in `FB`. -/
theorem dispatchStep_exists_next {s : State} (h : InNext s) (hagree : BusyAgrees s) (hf : s.fsm = .dispatching) :
    ∃ t, dispatchStep s = .next t := by
  obtain ⟨-, -, hread, -, -⟩ := (busyAgrees_dispatching hf).mp hagree
  obtain ⟨-, -, -, -, -, -, -, -, -, hfocus, -⟩ := h.context
  have hfetch : fetch s = fetchFrame s := by simp only [fetch, hfocus]
  unfold dispatchStep
  rw [hfetch]
  cases hcut : isCut s with
  | true =>
    rw [fetchFrame_of_isCut hread hcut]
    exact ⟨_, rfl⟩
  | false =>
    obtain ⟨hdr, body, hready⟩ := exists_ready hagree hf hcut
    obtain hr | hr | ⟨i, c, hi, hr⟩ := fetchFrame_cases hread <;> rw [hr]
    · exact ⟨_, rfl⟩
    · exact ⟨_, rfl⟩
    · exact ⟨_, exec_ready hi hready⟩

theorem awaitHeader_exists_next {s : State} (h : InNext s) : ∃ t, awaitHeader s = .next t := by
  have hcap := h.cap
  obtain ⟨b, src, spos, -, hr⟩ | ⟨t, -, hr⟩ | hr := awaitHeader_cases (s := s) (by omega) <;> exact ⟨_, hr⟩

/-- State `AwaitingBody` (41 R103): the frame fits the buffer, and its microsecond field is among the bytes read. -/
theorem awaitBody_exists_next {s : State} (h : InNext s) (hagree : BusyAgrees s) (hf : s.fsm = .awaitingBody) :
    ∃ t, awaitBody s = .next t := by
  obtain ⟨-, hcovers, hread, -, -⟩ := (busyAgrees_awaitingBody hf).mp hagree
  obtain ⟨sec, typ, -, len, hsec, -, -, hlen, het, -⟩ := hread.values
  obtain ⟨b, src, spos, hb, hr⟩ | ⟨t, -, hr⟩ | hr := awaitBody_cases het hlen
  · obtain ⟨-, htake⟩ | ⟨-, usec, ts, htake⟩ :=
      takeBody_cases (s := { s with src := src, spos := spos }) h.cap hcovers hsec het hlen hb <;>
      exact ⟨_, by rw [hr, htake]; rfl⟩
  · exact ⟨t, hr⟩
  · exact ⟨s, hr⟩

/-- Inside a `NEXT` the block always comes to a next state. -/
theorem blockStep_exists_next {s : State} (h : BlockInv s) (hb : s.busy = true) : ∃ t, blockStep s = .next t := by
  obtain ⟨hin, hagree⟩ := (blockInv_iff_of_busy hb).mp h
  unfold blockStep
  cases hf : s.fsm with
  | awaitingHeader => exact awaitHeader_exists_next hin
  | haveHeader =>
    obtain ⟨-, hcovers, -⟩ := (busyAgrees_haveHeader hf).mp hagree
    obtain ⟨sec, typ, sub, len, hr⟩ := haveHeader_next hcovers
    exact ⟨_, hr⟩
  | awaitingBody => exact awaitBody_exists_next hin hagree hf
  | dispatching => exact dispatchStep_exists_next hin hagree hf
  | done => exact absurd hf hin.notDone

theorem acceptNext_ne_fault (s : State) (f : Fault) : acceptNext s ≠ .fault f := by
  obtain ⟨-, hr⟩ | ⟨-, -, hr⟩ | ⟨-, -, hr⟩ := acceptNext_cases s <;> rw [hr] <;> nofun

/-- Settles O23, by what the caller's act makes of the step: the block's own step comes to a next state, and no act of the
caller faults. -/
theorem invIsSafe : Obligations.InvIsSafe := by
  intro s h f
  unfold step
  obtain ⟨cs, hb, hr⟩ | ⟨cs, -, hr⟩ | ⟨cs, -, hr⟩ | ⟨cs, -, hr⟩ | ⟨r, cs, -, ⟨-, hr⟩ | ⟨-, hr⟩⟩ :=
    hearCaller_cases s <;> simp only [hr]
  · obtain ⟨t, ht⟩ := blockStep_exists_next (s := { s with calls := cs }) h hb
    rw [ht]
    nofun
  · nofun
  · exact acceptNext_ne_fault _ f
  all_goals nofun

end Sys2Proof.Machine

/-! PROOFS. The decoder against the encoder (30_encoding R63, R67, R68, R70; 41_frame_parser R105): each row of the dispatch map
is the opcode of its instruction, no row is missing, and with distinct codes no two rows meet. -/

namespace Sys2Proof

open Sys2Proof.Machine (be toBe be_toBe be_cons be_lt toBe_length ofNat_be_toBe_half classAp)

/-! ### The rows of the dispatch map -/

theorem FrameRow.hits_iff (r : FrameRow) (typ sub : Half) :
    r.hits typ sub = true ↔ r.typ = typ ∧ r.sub.getD sub = sub := by
  unfold FrameRow.hits
  cases r.sub <;> simp

/-- A row is its instruction's opcode; where the row examines no subtype the instruction carries it. -/
theorem frameRows_opcode (cfg : Cfg) (sub : Half) :
    ∀ r ∈ frameRows cfg, (r.instr sub).opcode cfg = some (r.typ, r.sub.getD sub) :=
  List.map_inj_left.mp (show (frameRows cfg).map (fun r => (r.instr sub).opcode cfg) = (frameRows cfg).map _ from rfl)

/-- Every frame instruction has a row. -/
theorem mem_frameRows_of_opcode {cfg : Cfg} {i : Instr} {typ sub : Half} (h : i.opcode cfg = some (typ, sub)) :
    ∃ r ∈ frameRows cfg, r.instr sub = i := by
  rw [← List.mem_map]
  cases i <;> cases h <;> simp [frameRows]

/-- What a (type, subtype) pair decodes to has that pair for its opcode. -/
theorem opcode_of_decodeFrame {cfg : Cfg} {typ sub : Half} {i : Instr} (h : decodeFrame cfg typ sub = some i) :
    i.opcode cfg = some (typ, sub) := by
  obtain ⟨r, hr, rfl⟩ := Option.map_eq_some_iff.mp h
  have hhit : r.hits typ sub = true := by simpa using List.find?_some hr
  obtain ⟨htyp, hsub⟩ := (r.hits_iff _ _).mp hhit
  rw [frameRows_opcode cfg sub r (List.mem_of_find?_eq_some hr), htyp, hsub]

/-! ### No two rows meet -/

/-- The two rows differ in their type, or both examine the subtype and differ in it. -/
def FrameRow.Apart (r q : FrameRow) : Prop :=
  r.typ = q.typ → r.sub.isSome = true ∧ q.sub.isSome = true ∧ r.sub ≠ q.sub

theorem FrameRow.Apart.not_both_hit {r q : FrameRow} (h : r.Apart q) (typ sub : Half) :
    ¬ (r.hits typ sub = true ∧ q.hits typ sub = true) := by
  rintro ⟨hr, hq⟩
  obtain ⟨hrt, hrs⟩ := (r.hits_iff _ _).mp hr
  obtain ⟨hqt, hqs⟩ := (q.hits_iff _ _).mp hq
  obtain ⟨hr', hq', hne⟩ := h (hrt.trans hqt.symm)
  obtain ⟨a, ha⟩ := Option.isSome_iff_exists.mp hr'
  obtain ⟨b, hb⟩ := Option.isSome_iff_exists.mp hq'
  simp only [ha, hb, Option.getD_some] at hne hrs hqs
  exact hne (congrArg some (hrs.trans hqs.symm))

/-- The nine type codes, in the order of `Cfg.typesDistinct`. -/
def Cfg.typeCodes (cfg : Cfg) : List Half :=
  [cfg.tOspfv2, cfg.tTableDump, cfg.tTableDumpV2, cfg.tBgp4mp, cfg.tBgp4mpEt, cfg.tIsis, cfg.tIsisEt, cfg.tOspfv3,
    cfg.tOspfv3Et]

/-- The subtype codes that are examined inside the type at a place of `Cfg.typeCodes`, in the order of
`Cfg.subtypesDistinct`. -/
def Cfg.subtypeCodes (cfg : Cfg) : Nat → List Half
  | 1 => [cfg.stTdV4, cfg.stTdV6]
  | 2 => [cfg.stPit, cfg.stRibV4u, cfg.stRibV4m, cfg.stRibV6u, cfg.stRibV6m, cfg.stRibg, cfg.stRibV4uAp,
      cfg.stRibV4mAp, cfg.stRibV6uAp, cfg.stRibV6mAp, cfg.stRibgAp]
  | 3 | 4 => [cfg.stB4Sc, cfg.stB4Msg, cfg.stB4Msg4, cfg.stB4Sc4]
  | _ => []

/-- Where each row of the dispatch map has its type among the type codes and its subtype among the codes of that type. -/
def rowPlaces : List (Nat × Nat) :=
  [(1, 0), (1, 1), (2, 0), (2, 1), (2, 2), (2, 3), (2, 4), (2, 5), (2, 6), (2, 7), (2, 8), (2, 9), (2, 10),
   (3, 0), (4, 0), (3, 1), (4, 1), (3, 2), (4, 2), (3, 3), (4, 3), (0, 0), (7, 0), (8, 0), (5, 0), (6, 0)]

theorem frameRows_codes (cfg : Cfg) :
    (frameRows cfg).map (fun r => (some r.typ, r.sub)) =
      rowPlaces.map fun p => (cfg.typeCodes[p.1]?, (cfg.subtypeCodes p.1)[p.2]?) := rfl

theorem subtypeCodes_nodup {cfg : Cfg} (h : cfg.subtypesDistinct = true) (k : Nat) : (cfg.subtypeCodes k).Nodup := by
  simp only [Cfg.subtypesDistinct, Bool.and_eq_true, decide_eq_true_eq] at h
  obtain ⟨⟨htd, htd2⟩, hb4⟩ := h
  unfold Cfg.subtypeCodes
  split
  exacts [htd, htd2, hb4, hb4, List.nodup_nil]

theorem subtypeCodes_length (cfg : Cfg) (k : Nat) :
    (cfg.subtypeCodes k).length = (Cfg.default.subtypeCodes k).length := by
  unfold Cfg.subtypeCodes
  split <;> rfl

/-- Two rows of one type stand at different places of that type's subtype codes. -/
theorem rowPlaces_pairwise : rowPlaces.Pairwise fun p q => p.1 < 9 ∧
    (p.1 = q.1 → p.2 < (Cfg.default.subtypeCodes p.1).length ∧ q.2 < (Cfg.default.subtypeCodes p.1).length ∧
      p.2 ≠ q.2) := by
  decide

theorem frameRows_pairwise_apart {cfg : Cfg} (ht : cfg.typesDistinct = true) (hs : cfg.subtypesDistinct = true) :
    (frameRows cfg).Pairwise FrameRow.Apart := by
  have hcodes : ((frameRows cfg).map fun r => (some r.typ, r.sub)).Pairwise fun x y =>
      x.1 = y.1 → x.2.isSome = true ∧ y.2.isSome = true ∧ x.2 ≠ y.2 := by
    rw [frameRows_codes, List.pairwise_map]
    refine rowPlaces_pairwise.imp fun {p q} ⟨hp, hpq⟩ heq => ?_
    have hsame : p.1 = q.1 := (List.getElem?_inj hp (of_decide_eq_true ht)).mp heq
    obtain ⟨hp2, hq2, hne⟩ := hpq hsame
    rw [← subtypeCodes_length cfg] at hp2 hq2
    rw [← hsame]
    refine ⟨by simpa using hp2, by simpa using hq2, fun h => hne ?_⟩
    exact (List.getElem?_inj hp2 (subtypeCodes_nodup hs p.1)).mp h
  exact (List.pairwise_map.mp hcodes).imp fun h htyp => h (congrArg some htyp)

/-- Where rows are apart, the row that hits is the row found, wherever in the map it stands. -/
theorem find?_hits_of_pairwise_apart {rows : List FrameRow} {r : FrameRow} {typ sub : Half}
    (h : rows.Pairwise FrameRow.Apart) (hr : r ∈ rows) (hhit : r.hits typ sub = true) :
    rows.find? (fun q => q.hits typ sub) = some r := by
  induction rows with
  | nil => cases hr
  | cons q rows ih =>
    obtain ⟨hq, hrows⟩ := List.pairwise_cons.mp h
    rcases List.mem_cons.mp hr with rfl | hr
    · exact List.find?_cons_of_pos hhit
    · refine (List.find?_cons_of_neg fun hqhit => ?_).trans (ih hrows hr)
      exact (hq r hr).not_both_hit typ sub ⟨hqhit, hhit⟩

/-- In a well-formed configuration a frame instruction's opcode decodes to it. -/
theorem decodeFrame_of_opcode {cfg : Cfg} {i : Instr} {typ sub : Half} (hcfg : cfg.wf = true)
    (h : i.opcode cfg = some (typ, sub)) : decodeFrame cfg typ sub = some i := by
  simp only [Cfg.wf, Bool.and_eq_true] at hcfg
  obtain ⟨⟨⟨⟨htypes, hsubs⟩, -⟩, -⟩, -⟩ := hcfg
  obtain ⟨r, hr, rfl⟩ := mem_frameRows_of_opcode h
  rw [frameRows_opcode cfg sub r hr, Option.some.injEq, Prod.mk.injEq] at h
  have hfound := find?_hits_of_pairwise_apart (frameRows_pairwise_apart htypes hsubs) hr ((r.hits_iff _ _).mpr h)
  rw [decodeFrame, hfound]
  rfl

/-! ### Opcode bytes -/

/-- Runs of one length with one value are one run. -/
theorem be_inj {a b : Run} (hlen : a.length = b.length) (h : be a = be b) : a = b := by
  induction a generalizing b with
  | nil => exact (List.eq_nil_of_length_eq_zero hlen.symm).symm
  | cons x xs ih =>
    cases b with
    | nil => cases hlen
    | cons y ys =>
      have htail : xs.length = ys.length := Nat.succ.inj hlen
      have hys := be_lt ys
      have hxs := be_lt xs
      rw [be_cons, be_cons, htail] at h
      rw [htail] at hxs
      have hpos : 0 < 256 ^ ys.length := Nat.pow_pos (by omega)
      have hdiv := congrArg (· / 256 ^ ys.length) h
      have hmod := congrArg (· % 256 ^ ys.length) h
      simp only [Nat.mul_comm _ (256 ^ ys.length), Nat.mul_add_div hpos, Nat.div_eq_of_lt hxs, Nat.div_eq_of_lt hys,
        Nat.add_zero] at hdiv
      simp only [Nat.mul_comm _ (256 ^ ys.length), Nat.mul_add_mod, Nat.mod_eq_of_lt hxs, Nat.mod_eq_of_lt hys] at hmod
      rw [BitVec.eq_of_toNat_eq hdiv, ih htail hmod]

/-- A run is the bytes of its value (00_scope R7). -/
theorem toBe_be (b : Run) : toBe b.length (be b) = b :=
  be_inj (toBe_length _ _) ((be_toBe _ _).trans (Nat.mod_eq_of_lt (be_lt b)))

theorem toBe_ofNat_be_half (a b : Byte) : toBe 2 (BitVec.ofNat 16 (be [a, b])).toNat = [a, b] := by
  have hlt : be [a, b] < 2 ^ 16 := (be_lt [a, b]).trans_eq (by norm_num)
  rw [BitVec.toNat_ofNat, Nat.mod_eq_of_lt hlt]
  exact toBe_be [a, b]

theorem encode_of_opcode {cfg : Cfg} {i : Instr} {typ sub : Half} (h : i.opcode cfg = some (typ, sub)) :
    encode cfg i = toBe 2 typ.toNat ++ toBe 2 sub.toNat := by
  simp [encode, h]

theorem place_of_opcode {cfg : Cfg} {i : Instr} {p : Half × Half} (h : i.opcode cfg = some p) : i.place = .frame := by
  cases i <;> cases h <;> rfl

/-- A frame instruction carries nothing that its row could contradict. -/
theorem wf_of_opcode {cfg : Cfg} {i : Instr} {p : Half × Half} (h : i.opcode cfg = some p) : i.wf cfg = true := by
  cases i <;> cases h <;> rfl

theorem exists_opcode_of_place_frame (cfg : Cfg) {i : Instr} (h : i.place = .frame) :
    ∃ typ sub, i.opcode cfg = some (typ, sub) := by
  cases i <;> cases h <;> exact ⟨_, _, rfl⟩

/-- The decoder at a frame dispatches on the pair of the first four bytes. -/
theorem decode_frame_ok_iff {cfg : Cfg} {a b c d : Byte} {more rest : Run} {i : Instr} :
    decode cfg .frame (a :: b :: c :: d :: more) = .ok (i, rest) ↔
      decodeFrame cfg (BitVec.ofNat 16 (be [a, b])) (BitVec.ofNat 16 (be [c, d])) = some i ∧ more = rest := by
  simp only [decode]
  split <;> simp_all

/-- The same, on the bytes of a pair. -/
theorem decode_frame_of_decodeFrame {cfg : Cfg} {typ sub : Half} {i : Instr} (h : decodeFrame cfg typ sub = some i)
    (rest : Run) : decode cfg .frame (toBe 2 typ.toNat ++ toBe 2 sub.toNat ++ rest) = .ok (i, rest) := by
  refine decode_frame_ok_iff.mpr ⟨?_, rfl⟩
  show decodeFrame cfg (BitVec.ofNat 16 (be (toBe 2 typ.toNat))) (BitVec.ofNat 16 (be (toBe 2 sub.toNat))) = some i
  rw [ofNat_be_toBe_half, ofNat_be_toBe_half, h]

/-! ### The element rows -/

/-- The low two flag bits, one by one (30 R68). -/
theorem and_three_eq (f : Byte) :
    f &&& 0x03 = (if f.getLsbD 0 then 1 else 0) ||| (if f.getLsbD 1 then 2 else 0) := by
  split_ifs with h0 h1 h1
  all_goals
    ext i hi
    interval_cases i <;> simp_all

/-- The PeerEntry row by the number of the low two flag bits. -/
theorem decodePeer_eq_ite (f : Byte) :
    decodePeer f = if f &&& 0x03 = 0x00 then .peerV4As2 f else if f &&& 0x03 = 0x01 then .peerV6As2 f
      else if f &&& 0x03 = 0x02 then .peerV4As4 f else .peerV6As4 f := by
  rw [and_three_eq]
  unfold decodePeer
  cases f.getLsbD 0 <;> cases f.getLsbD 1 <;> rfl

/-- The PeerEntry row read from a flags byte is one that the byte may stand in, and it is written as that byte. -/
theorem decodePeer_spec (cfg : Cfg) (f : Byte) :
    (decodePeer f).wf cfg = true ∧ (decodePeer f).place = .peer ∧ encode cfg (decodePeer f) = [f] := by
  unfold decodePeer
  split <;> next h0 h1 => exact ⟨by simp only [Instr.wf, and_three_eq, h0, h1]; rfl, rfl, rfl⟩

theorem decodeAttr_spec (cfg : Cfg) (f : Byte) :
    (decodeAttr cfg f).wf cfg = true ∧ (decodeAttr cfg f).place = .attr ∧ encode cfg (decodeAttr cfg f) = [f] := by
  unfold decodeAttr
  split <;> next h => exact ⟨by simpa [Instr.wf] using h, rfl, rfl⟩

/-- A flags byte stands in one PeerEntry row only. -/
theorem decodePeer_of_wf {cfg : Cfg} {i : Instr} (h : i.wf cfg = true) (hp : i.place = .peer) :
    ∃ f, encode cfg i = [f] ∧ decodePeer f = i := by
  cases i <;> cases hp <;> next f => exact ⟨f, rfl, by rw [decodePeer_eq_ite, eq_of_beq h]; rfl⟩

theorem decodeAttr_of_wf {cfg : Cfg} {i : Instr} (h : i.wf cfg = true) (hp : i.place = .attr) :
    ∃ f, encode cfg i = [f] ∧ decodeAttr cfg f = i := by
  cases i <;> cases hp
  case attrShort f => exact ⟨f, rfl, if_pos (by simpa [Instr.wf] using h)⟩
  case attrExt f => exact ⟨f, rfl, if_neg (by simpa [Instr.wf] using h)⟩

theorem decodeNlri_of_place {cfg : Cfg} {i : Instr} (hp : i.place = .nlri) :
    ∃ l, encode cfg i = [l] ∧ decodeNlri l = i := by
  cases i <;> cases hp
  exact ⟨_, rfl, rfl⟩

/-! ### The round trips -/

/-- Settles O1: a frame's opcode hits one row only, and an element's byte stands in one row only. -/
theorem decodeOfEncode : Obligations.DecodeOfEncode := by
  intro cfg i rest hcfg hi
  cases hp : i.place with
  | frame =>
    obtain ⟨typ, sub, hop⟩ := exists_opcode_of_place_frame cfg hp
    rw [encode_of_opcode hop]
    exact decode_frame_of_decodeFrame (decodeFrame_of_opcode hcfg hop) rest
  | peer =>
    obtain ⟨f, henc, rfl⟩ := decodePeer_of_wf hi hp
    rw [henc]
    rfl
  | attr =>
    obtain ⟨f, henc, rfl⟩ := decodeAttr_of_wf hi hp
    rw [henc]
    rfl
  | nlri =>
    obtain ⟨l, henc, rfl⟩ := decodeNlri_of_place (cfg := cfg) hp
    rw [henc]
    rfl

/-- Settles O2: the row that was hit is the opcode of its instruction, and an element carries the byte it was read from. -/
theorem encodeOfDecode : Obligations.EncodeOfDecode := by
  intro cfg place bytes i rest h
  match place, bytes with
  | .frame, [] | .frame, [_] | .frame, [_, _] | .frame, [_, _, _] => cases h
  | .frame, a :: b :: c :: d :: more =>
    obtain ⟨hi, rfl⟩ := decode_frame_ok_iff.mp h
    have hop := opcode_of_decodeFrame hi
    refine ⟨wf_of_opcode hop, place_of_opcode hop, ?_⟩
    rw [encode_of_opcode hop, toBe_ofNat_be_half, toBe_ofNat_be_half]
    rfl
  | .peer, f :: more =>
    cases h
    obtain ⟨hwf, hplace, henc⟩ := decodePeer_spec cfg f
    exact ⟨hwf, hplace, by rw [henc]; rfl⟩
  | .attr, f :: more =>
    cases h
    obtain ⟨hwf, hplace, henc⟩ := decodeAttr_spec cfg f
    exact ⟨hwf, hplace, by rw [henc]; rfl⟩
  | .nlri, l :: more =>
    cases h
    exact ⟨rfl, rfl, rfl⟩
  | .peer, [] | .attr, [] | .nlri, [] => cases h

/-! ### The ADD-PATH sub-range -/

/-- Where the codes of the dispatch map stand that have the path identifier, and where those that have it not (30 R63, R64). -/
theorem classAp_cases {cfg : Cfg} {i : Instr} {typ sub : Half} {c : RecordClass} (hop : i.opcode cfg = some (typ, sub))
    (hc : i.recordClass = some c) :
    (classAp c = true ∧ typ = cfg.tTableDumpV2 ∧
        sub ∈ [cfg.stRibV4uAp, cfg.stRibV4mAp, cfg.stRibV6uAp, cfg.stRibV6mAp, cfg.stRibgAp]) ∨
      (classAp c = false ∧ typ = cfg.tTableDumpV2 ∧
        sub ∈ [cfg.stPit, cfg.stRibV4u, cfg.stRibV4m, cfg.stRibV6u, cfg.stRibV6m, cfg.stRibg]) ∨
      (classAp c = false ∧ typ ∈ cfg.typeCodes.eraseIdx 2) := by
  cases i <;> cases hop <;> cases hc <;> simp [classAp, Cfg.typeCodes]

theorem Cfg.inApRange_eq (cfg : Cfg) (sub : Half) : cfg.inApRange sub = decide (cfg.apLo ≤ sub ∧ sub ≤ cfg.apHi) :=
  (Bool.decide_and _ _).symm

/-- Settles O5: the codes with the path identifier fill the sub-range, the other codes of TABLE_DUMP_V2 lie outside it, and
no other type has TABLE_DUMP_V2's code. -/
theorem addPathIsTheSubRange : Obligations.AddPathIsTheSubRange := by
  constructor
  · intro cfg typ sub c hcfg hclass
    simp only [Cfg.wf, Cfg.apCoherent, Bool.and_eq_true, List.all_eq_true, Bool.not_eq_true'] at hcfg
    obtain ⟨⟨⟨⟨htypes, -⟩, hap, hplain⟩, -⟩, -⟩ := hcfg
    obtain ⟨i, hi, hc⟩ := Option.bind_eq_some_iff.mp hclass
    rw [← Cfg.inApRange_eq]
    rcases classAp_cases (opcode_of_decodeFrame hi) hc with ⟨hv, htyp, hsub⟩ | ⟨hv, htyp, hsub⟩ | ⟨hv, htyp⟩
    · exact ⟨fun _ => hv.trans (hap sub hsub).symm, fun hne => absurd htyp hne⟩
    · exact ⟨fun _ => hv.trans (hplain sub hsub).symm, fun _ => hv⟩
    · refine ⟨fun heq => ?_, fun _ => hv⟩
      have hnodup : cfg.typeCodes.Nodup := of_decide_eq_true htypes
      obtain ⟨k, hk, hget⟩ := List.mem_eraseIdx_iff_getElem?.mp htyp
      have hlen : 2 < cfg.typeCodes.length := by simp [Cfg.typeCodes]
      exact absurd ((List.getElem?_inj hlen hnodup).mp (hget.trans (congrArg some heq)).symm) hk.symm
  · intro sub hlo hhi
    have hcodes : sub = 8 ∨ sub = 9 ∨ sub = 10 ∨ sub = 11 ∨ sub = 12 := by
      simp only [Cfg.default] at hlo hhi
      bv_omega
    rcases hcodes with rfl | rfl | rfl | rfl | rfl <;> rfl

/-! ### The unsupported pairs -/

theorem recordClass_ne_none_of_opcode {cfg : Cfg} {i : Instr} {p : Half × Half} (h : i.opcode cfg = some p) :
    i.recordClass ≠ none := by
  cases i <;> cases h <;> nofun

/-- Unsupported is: no row has the type and, where the subtype is examined, the subtype (30 R65). -/
theorem dispatchClass_eq_none_iff (cfg : Cfg) (typ sub : Half) :
    dispatchClass cfg typ sub = none ↔ ∀ r ∈ frameRows cfg, typ = r.typ → sub ≠ r.sub.getD sub := by
  have hclass : dispatchClass cfg typ sub = none ↔ decodeFrame cfg typ sub = none := by
    refine Option.bind_eq_none_iff.trans ⟨fun h => ?_, fun h => by simp [h]⟩
    refine Option.eq_none_iff_forall_ne_some.mpr fun i hi => ?_
    exact recordClass_ne_none_of_opcode (opcode_of_decodeFrame hi) (h i hi)
  rw [hclass, decodeFrame, Option.map_eq_none_iff, List.find?_eq_none]
  refine forall₂_congr fun r _ => ?_
  rw [r.hits_iff, not_and, eq_comm, ne_comm]

theorem default_typ_mem : ∀ r ∈ frameRows Cfg.default, r.typ ∈ ([11, 12, 13, 16, 17, 32, 33, 48, 49] : List Half) := by
  decide

/-- Settles O6, by the type: a type of no row selects nothing, and a type whose rows examine the subtype selects what they
list; only in TABLE_DUMP_V2 is that not the list of the statement, but its complement. -/
theorem unsupportedPairs : Obligations.UnsupportedPairs := by
  intro typ sub
  rw [dispatchClass_eq_none_iff]
  by_cases h : typ ∈ [11, 12, 13, 16, 17, 32, 33, 48, 49]
  · simp only [List.mem_cons, List.not_mem_nil, or_false] at h
    rcases h with rfl | rfl | rfl | rfl | rfl | rfl | rfl | rfl | rfl <;>
      simp only [frameRows, Cfg.default, List.cons_append, List.nil_append, List.forall_mem_cons] <;> simp
    bv_omega
  · exact iff_of_true (fun r hr htyp => absurd (htyp ▸ default_typ_mem r hr) h) (.inl h)

/-- Settles O4, by running the decoder. -/
theorem tableWordsDecode : Obligations.TableWordsDecode := by
  unfold Obligations.TableWordsDecode
  decide

end Sys2Proof

/-! PROOFS. One step of state `Dispatching` by what its fetch finds (41_frame_parser R104, assumption 7): an element's instruction
at a unit's cursor, a cut element, the end of a window of `ATTRS`, or the variant's cut header (30_encoding R62). -/

namespace Sys2Proof.Machine

/-! ### A step is its fetch and what follows -/

/-- With a `NEXT` in progress and no act of the caller, the step in `Dispatching` is the block's own. -/
theorem step_eq_dispatchStep {s : State} (hcalls : s.calls = []) (hbusy : s.busy = true) (hfsm : s.fsm = .dispatching) :
    step s = dispatchStep s := by
  simp [step, hearCaller, blockStep, hcalls, hbusy, hfsm]

theorem dispatchStep_of_instr {s : State} {i : Instr} (h : fetch s = .ok (.instr i) s) : dispatchStep s = exec i s := by
  rw [dispatchStep, h]
  rfl

theorem dispatchStep_of_windowEnd {s : State} (h : fetch s = .ok .windowEnd s) : dispatchStep s = .next s := by
  rw [dispatchStep, h]
  rfl

theorem dispatchStep_of_raised {s : State} {k : Raise} (h : fetch s = .error (.raised k) s) :
    dispatchStep s = .next (abort k.kind s) := by
  rw [dispatchStep, h]
  rfl

/-! ### The fetch of an element -/

theorem fetchElement_of_decode {s : State} {place : Place} {a l : Nat} {b : Byte} {i : Instr} (cut : Raise)
    (hread : s.fb.read a = some b) (hdec : decode s.cfg place [b] = .ok (i, [])) (hlt : a < l) :
    fetchElement place a l cut s = .ok (.instr i) s := by
  have hrun : s.fb.readRun a 1 = some [b] := by simp [Memory.readRun_succ, hread]
  rw [fetchElement, if_neg (by omega), Op.bind_ok (askCfg_apply _ _), Op.bind_ok (memRead_some hrun), ofNat_be_byte, id,
    hdec]
  rfl

theorem fetchElement_of_le {s : State} {place : Place} {a l : Nat} (cut : Raise) (h : l ≤ a) :
    fetchElement place a l cut s = .error (.raised cut) s := by
  rw [fetchElement, if_pos h]
  rfl

/-- A PeerEntry or an NLRI driven by itself is fetched at the main cursor (40 R91). -/
theorem fetch_at_cursor {s : State} {a l : Nat} (hfocus : s.focus = .peer ∨ s.focus = .nlri) (hcur : s.cur = some a)
    (hlim : s.lim = some l) : fetch s = fetchElement s.focus a l .truncatedInput s := by
  have hfetch : fetch s = fetchAtCursor s.focus s := by
    unfold fetch
    rcases hfocus with h | h <;> simp only [h]
  rw [hfetch, fetchAtCursor, Op.bind_ok (readReq_some hcur), Op.bind_ok (readReq_some hlim)]

/-- An Attr driven by itself is fetched at the iterator's cursor, by the bytes left of its window (44 R131). -/
theorem fetch_in_window {s : State} {a l : Nat} (hfocus : s.focus = .attr) (hcur : s.atCur = some a)
    (hlim : s.atLim = some l) : fetch s =
      (if l - a = 0 then pure .windowEnd
        else if l - a < 3 then raise .malformedAttribute
        else fetchElement .attr a l .malformedAttribute : Op Fetched) s := by
  have hfetch : fetch s = fetchAttr s := by simp only [fetch, hfocus]
  rw [hfetch, fetchAttr, Op.bind_ok (readReq_some hcur), Op.bind_ok (readReq_some hlim)]

/-- Settles O8, by the unit that is driven and by the bytes left at its cursor. -/
theorem stepRunsTheElement : Obligations.StepRunsTheElement := by
  intro s a l hcalls hbusy hfsm
  rw [step_eq_dispatchStep hcalls hbusy hfsm]
  refine ⟨fun hfocus hcur hlim => ⟨fun b i hread hdec hlt => ?_, fun hle => ?_⟩,
    fun hfocus hcur hlim => ⟨fun b i hread hdec hthree => ?_, fun hle => ?_, fun hlt hshort => ?_⟩⟩
  · exact dispatchStep_of_instr
      ((fetch_at_cursor hfocus hcur hlim).trans (fetchElement_of_decode _ hread hdec hlt))
  · exact dispatchStep_of_raised ((fetch_at_cursor hfocus hcur hlim).trans (fetchElement_of_le _ hle))
  all_goals have hfetch := fetch_in_window hfocus hcur hlim
  · rw [if_neg (by omega), if_neg (by omega)] at hfetch
    exact dispatchStep_of_instr (hfetch.trans (fetchElement_of_decode _ hread (hfocus ▸ hdec) (by omega)))
  · rw [if_pos (by omega)] at hfetch
    exact dispatchStep_of_windowEnd hfetch
  · rw [if_neg (by omega), if_pos (by omega)] at hfetch
    exact dispatchStep_of_raised hfetch

/-! ### The variant's cut header -/

/-- Settles O10: the cut header is met before the pair is looked at (assumption 12). -/
theorem cutMicrosecondsAreTruncated : Obligations.CutMicrosecondsAreTruncated := by
  intro s len hcalls hbusy hfsm hfocus hvariant het hlen hcut
  have hheader : headerCut s.cfg true len = true := by simp [headerCut, countsUs, hvariant, hcut]
  have hfetch : fetch s = .error (.raised .truncatedInput) s := by
    simp only [fetch, hfocus]
    rw [fetchFrame, Op.bind_ok (readHeaderCut_some het hlen), if_pos hheader]
    rfl
  rw [step_eq_dispatchStep hcalls hbusy hfsm]
  exact ⟨dispatchStep_of_raised hfetch, rfl⟩

end Sys2Proof.Machine

/-! PROOFS. The wire layouts of 30_encoding R66 to R77 against the parsers of 41 R110: the bytes of a well-formed value are read
back as that value, whatever follows them, so the body that carries a well-formed Record delivers it. -/

namespace Sys2Proof.Machine

open Parse (Parser)

/-! ### Reading a run back -/

/-- On the bytes `b` the parser gives `v`, whatever follows them, and leaves what follows. -/
def Reads {α : Type} (p : Parser α) (b : Run) (v : α) : Prop :=
  ∀ rest, p (b ++ rest) = .ok (v, rest)

section Combinators

variable {α β : Type} {p : Parser α} {b c : Run} {v : α} {u : β}

theorem Reads.bind {f : α → Parser β} (hp : Reads p b v) (hf : Reads (f v) c u) : Reads (p >>= f) (b ++ c) u := by
  intro rest
  rw [Parse.bind_apply, List.append_assoc, hp]
  exact hf rest

/-- The last field of a layout. -/
theorem Reads.map (hp : Reads p b v) (f : α → β) : Reads (p >>= fun a => pure (f a)) b (f v) := by
  intro rest
  rw [Parse.bind_apply, hp]
  rfl

theorem Reads.map_eq {f : α → β} (hp : Reads p b v) (h : f v = u) : Reads (p >>= fun a => pure (f a)) b u :=
  h ▸ hp.map f

theorem reads_pure (v : α) : Reads (pure v : Parser α) [] v := fun _ => rfl

/-- Elements back to back are read as the list, by their number (45 R147). -/
theorem reads_repeated {wire : α → Run} {l : List α} (h : ∀ a ∈ l, Reads p (wire a) a) {n : Nat} (hn : n = l.length) :
    Reads (Parse.repeated n p) (l.flatMap wire) l := by
  subst hn
  induction l with
  | nil => exact reads_pure []
  | cons a l ih =>
    exact (h a List.mem_cons_self).bind <| (ih fun x hx => h x (List.mem_cons_of_mem a hx)).map _

end Combinators

/-! ### Fields -/

theorem reads_take {n : Nat} {b : Run} (h : b.length = n) : Reads (Parse.take n) b b := by
  subst h
  intro rest
  simp [Parse.take]

theorem reads_u8 (v : Byte) : Reads Parse.u8 [v] v := (reads_take (b := [v]) rfl).map_eq (ofNat_be_byte v)

theorem reads_u16 (v : Half) : Reads Parse.u16 (toBe 2 v.toNat) v :=
  (reads_take (toBe_length _ _)).map_eq (ofNat_be_toBe_half v)

theorem reads_u32 (v : Word) : Reads Parse.u32 (toBe 4 v.toNat) v :=
  (reads_take (toBe_length _ _)).map_eq (ofNat_be_toBe_word v)

/-- A length or a count, as the field that declares it. -/
theorem reads_count {n : Nat} (h : n < 65536) : ∃ v : Half, v.toNat = n ∧ Reads Parse.u16 (toBe 2 n) v := by
  have hv : (BitVec.ofNat 16 n).toNat = n := Nat.mod_eq_of_lt h
  exact ⟨_, hv, by simpa only [hv] using reads_u16 (BitVec.ofNat 16 n)⟩

/-- An AS number of the width asked for (30 R66). -/
theorem reads_asNumber {n : ASNumber} {wide : Bool} (h : n.width = if wide then 4 else 2) :
    Reads (Parse.asNumber wide) n.wire n := by
  cases n <;> cases wide <;> cases h
  case as2 v => exact (reads_u16 v).map _
  case as4 v => exact (reads_u32 v).map _

/-! ### Prefixes -/

/-- A bit of an address byte, by its place in the byte. -/
theorem bitAt_eq_getLsbD {a : Run} {j k : Nat} (hj : j < a.length) (hk : k < 8) :
    bitAt a (8 * j + (7 - k)) = (a[j]).getLsbD k := by
  have hdiv : (8 * j + (7 - k)) / 8 = j := by omega
  have hmod : 7 - (8 * j + (7 - k)) % 8 = k := by omega
  rw [bitAt, hdiv, hmod, List.getD_eq_getElem _ _ hj]

/-- A clean Prefix has its bits of position `bitlen` and later at zero, byte by byte (10_state R24). -/
theorem Prefix.clean.getLsbD_eq_false {p : Prefix} (h : p.clean) {j k : Nat} (hj : j < p.addr.length) (hk : k < 8)
    (hbit : p.bitlen.toNat ≤ 8 * j + (7 - k)) : (p.addr[j]).getLsbD k = false := by
  rw [← bitAt_eq_getLsbD hj hk]
  exact h _ (by omega) hbit

/-- The bytes of a clean Prefix that are not on the wire are the zeros it is padded with (43 R125). -/
theorem Prefix.clean.take_append_zeros {p : Prefix} (h : p.clean) :
    p.addr.take (ceil8 p.bitlen.toNat) ++ zeros (p.addr.length - ceil8 p.bitlen.toNat) = p.addr := by
  have hdrop : zeros (p.addr.length - ceil8 p.bitlen.toNat) = p.addr.drop (ceil8 p.bitlen.toNat) := by
    refine List.ext_getElem (by simp) fun j hz hj => ?_
    rw [List.length_drop] at hj
    refine BitVec.eq_of_getLsbD_eq fun k hk => ?_
    rw [List.getElem_drop, h.getLsbD_eq_false (by omega) hk (by unfold ceil8; omega)]
    simp [zeros]
  rw [hdrop, List.take_append_drop]

theorem maskAt_eq_self {i : Nat} {m : Byte} {a : Run} (h : ∀ hi : i < a.length, a[i] &&& m = a[i]) :
    maskAt i m a = a := by
  induction a generalizing i with
  | nil => cases i <;> rfl
  | cons b bs ih =>
    cases i with
    | zero => exact congrArg (· :: bs) (h (by simp))
    | succ i => exact congrArg (b :: ·) (ih fun hi => h (by simpa using hi))

theorem getLsbD_headMask (r : Nat) {k : Nat} (hk : k < 8) : (headMask r).getLsbD k = decide (8 - r ≤ k) := by
  have hones : (0xFF : Byte) = BitVec.allOnes 8 := rfl
  have hlt : k - (8 - r) < 8 := by omega
  simp only [headMask, hones, BitVec.getLsbD_shiftLeft, BitVec.getLsbD_allOnes, hk, hlt, decide_true, Bool.true_and,
    Bool.and_true]
  rw [← decide_not]
  exact decide_eq_decide.mpr Nat.not_lt

/-- The tail mask finds nothing to clear in a clean Prefix (43 R126). -/
theorem Prefix.clean.maskTail_eq {p : Prefix} (h : p.clean) :
    maskTail p.bitlen.toNat (ceil8 p.bitlen.toNat) p.addr = p.addr := by
  unfold maskTail
  split
  · rfl
  · next hr =>
    refine maskAt_eq_self fun hj => BitVec.eq_of_getLsbD_eq fun k hk => ?_
    rw [BitVec.getLsbD_and, getLsbD_headMask _ hk]
    by_cases hkeep : 8 - p.bitlen.toNat % 8 ≤ k
    · simp [hkeep]
    · rw [h.getLsbD_eq_false hj hk (by unfold ceil8; omega)]
      rfl

/-- A Prefix on the wire (30 R67). -/
theorem reads_pfx {p : Prefix} {afw : Nat} (cfg : Cfg) (h : p.fits afw) : Reads (Parse.pfx cfg afw) p.wire p := by
  obtain ⟨hlen, hbits, hclean⟩ := h
  refine (reads_u8 p.bitlen).bind (c := p.addr.take (ceil8 p.bitlen.toNat)) ?_
  have hceil : ceil8 p.bitlen.toNat ≤ p.addr.length := hlen ▸ ceil8_le _ _ hbits
  rw [if_neg (by omega)]
  have htake : (p.addr.take (ceil8 p.bitlen.toNat)).length = ceil8 p.bitlen.toNat := List.length_take_of_le hceil
  refine (reads_take htake).map_eq ?_
  simp only [← hlen, hclean.take_append_zeros, hclean.maskTail_eq, ite_self]

/-! ### PeerEntry, attributes, RIBEntry -/

/-- A PeerEntry on the wire (30 R68). -/
theorem reads_peer {e : PeerEntry} (h : e.fits) : Reads Parse.peer e.wire e := by
  obtain ⟨haddr, hasn⟩ := h
  simp only [PeerEntry.wire, List.append_assoc]
  exact (reads_u8 _).bind <| (reads_u32 _).bind <| (reads_take haddr).bind <| (reads_asNumber hasn).map _

/-- One Attr at the head of a window is taken whole, in the form that its flags select (30 R70, 44 R131). -/
theorem attrList_wire_append {cfg : Cfg} {asw : Nat} {a : Attr} (h : a.fits cfg asw) (k : Nat) (w : Run) :
    Parse.attrList cfg asw (k + 1) (a.wire cfg ++ w) = (Parse.attrList cfg asw k w).map (a :: ·) := by
  obtain ⟨flags, typ, len, value, aw⟩ := a
  obtain ⟨rfl, hvalue, hshort⟩ := h
  unfold Attr.wire
  cases hext : attrIsExt cfg flags with
  | false =>
    obtain ⟨x, hx⟩ : ∃ x, toBe 1 len.toNat = [x] := ⟨_, rfl⟩
    have hlen : x.toNat = len.toNat := by
      rw [← be_singleton, ← hx, be_toBe, Nat.mod_eq_of_lt ((hshort hext).trans_eq (by norm_num))]
    simp only [attrHeaderLen, Bool.false_eq_true, if_false, hx, List.cons_append, List.nil_append, Parse.attrList]
    simp [hext, hlen, hvalue, List.take_left' hvalue, List.drop_left' hvalue]
  | true =>
    obtain ⟨x, y, hxy⟩ : ∃ x y, toBe 2 len.toNat = [x, y] := ⟨_, _, rfl⟩
    have hlen : be [x, y] = len.toNat := by
      rw [← hxy, be_toBe, Nat.mod_eq_of_lt (len.isLt.trans_eq (by norm_num))]
    simp only [attrHeaderLen, if_true, hxy, List.cons_append, List.nil_append, Parse.attrList]
    simp [hext, hlen, hvalue, List.take_left' hvalue, List.drop_left' hvalue]

/-- A window is walked to its end when the bound exceeds its bytes. -/
theorem attrList_flatMap_wire {cfg : Cfg} {asw : Nat} {as : List Attr} (h : ∀ a ∈ as, a.fits cfg asw) {k : Nat}
    (hk : (as.flatMap (Attr.wire cfg)).length < k) : Parse.attrList cfg asw k (as.flatMap (Attr.wire cfg)) = .ok as := by
  induction as generalizing k with
  | nil =>
    obtain ⟨k, rfl⟩ := Nat.exists_eq_add_one_of_ne_zero (Nat.ne_of_gt hk)
    rfl
  | cons a as ih =>
    obtain ⟨k, rfl⟩ := Nat.exists_eq_add_one_of_ne_zero (Nat.ne_zero_of_lt hk)
    have hpos : 0 < (a.wire cfg).length := by simp [Attr.wire]
    rw [List.flatMap_cons, List.length_append] at hk
    rw [List.flatMap_cons, attrList_wire_append (h a List.mem_cons_self),
      ih (fun x hx => h x (List.mem_cons_of_mem a hx)) (by omega)]
    rfl

theorem reads_attrs {cfg : Cfg} {asw n : Nat} {as : List Attr} (h : ∀ a ∈ as, a.fits cfg asw)
    (hn : n = (as.flatMap (Attr.wire cfg)).length) :
    Reads (Parse.attrs cfg asw n) (as.flatMap (Attr.wire cfg)) as := by
  subst hn
  intro rest
  rw [Parse.attrs, Parse.bind_apply, reads_take rfl]
  simp only [attrList_flatMap_wire h (Nat.lt_succ_self _)]
  rfl

/-- A window of `ATTRS` with its length before it, and whatever is made of the attributes (30 R69, R72). -/
theorem reads_attrsWire {β : Type} {cfg : Cfg} {asw : Nat} {as : List Attr} (h : attrsFit cfg asw as)
    (f : List Attr → β) : Reads (Parse.u16 >>= fun n => Parse.attrs cfg asw n.toNat >>= fun as => pure (f as))
      (attrsWire cfg as) (f as) := by
  obtain ⟨hfits, hlen⟩ := h
  obtain ⟨n, hn, hread⟩ := reads_count hlen
  exact hread.bind <| (reads_attrs hfits hn).map f

/-- A counted list, and whatever is made of it (45 R147). -/
theorem reads_counted {α β : Type} {p : Parser α} {wire : α → Run} {fits : α → Prop} {l : List α}
    (h : listFits fits l) (hp : ∀ a, fits a → Reads p (wire a) a) (f : List α → β) :
    Reads (Parse.u16 >>= fun n => Parse.repeated n.toNat p >>= fun l => pure (f l))
      (toBe 2 l.length ++ l.flatMap wire) (f l) := by
  obtain ⟨hlen, hfits⟩ := h
  obtain ⟨n, hn, hread⟩ := reads_count hlen
  exact hread.bind <| (reads_repeated (fun a ha => hp a (hfits a ha)) hn).map f

/-- A RIBEntry on the wire, with a path identifier exactly where the class has one (30 R69). -/
theorem reads_ribEntry {cfg : Cfg} {ap : Bool} {e : RIBEntry} (h : e.fits cfg ap) :
    Reads (Parse.ribEntry cfg ap) (e.wire cfg) e := by
  obtain ⟨peerIndex, otime, pid, as⟩ := e
  obtain ⟨rfl, has⟩ := h
  simp only [RIBEntry.wire, List.append_assoc]
  refine (reads_u16 _).bind <| (reads_u32 _).bind ?_
  cases pid with
  | none => exact (reads_pure none).bind (reads_attrsWire has _)
  | some p => exact ((reads_u32 p).map some).bind (reads_attrsWire has _)

/-- The six fields of the BGP4MP bodies (30 R76). -/
theorem reads_b4Head {cfg : Cfg} {wide : Bool} {h : B4Head} (hfits : h.fits cfg (if wide then 4 else 2)) :
    Reads (Parse.b4Head cfg wide) h.wire h := by
  obtain ⟨hpeer, hlocal, haf, hip⟩ := hfits
  simp only [B4Head.wire, List.append_assoc]
  refine (reads_asNumber hpeer).bind <| (reads_asNumber hlocal).bind <| (reads_u16 _).bind <| (reads_u16 _).bind ?_
  rw [haf]
  exact (reads_take rfl).bind <| (reads_take hip).map _

/-! ### Bodies -/

/-- The body that carries the Record, read by the parser of its class, delivers it, whatever bytes follow. -/
theorem exec_deliver_of_reads {i : Instr} {c : RecordClass} {s : State} {hdr : FrameHdr} {r : Record} {trail : Run}
    (hi : i.recordClass = some c) (hready : Ready s hdr (r.wire s.cfg ++ trail))
    (hread : Reads (Parse.body s.cfg c hdr) (r.wire s.cfg) r) : exec i s = .next (deliver r s) := by
  rw [exec_ready hi hready, hread trail]
  rfl

theorem body_eq_tableDump {cfg : Cfg} {c : RecordClass} {hdr : FrameHdr} {n : Nat} (hc : c = .tdV4 ∨ c = .tdV6)
    (hn : classAfw c = some n) : Parse.body cfg c hdr = Parse.tableDump cfg n hdr := by
  rcases hc with rfl | rfl <;> cases hn <;> rfl

theorem body_eq_rib {cfg : Cfg} {c : RecordClass} {hdr : FrameHdr} {n : Nat}
    (hc : c = .td2RibV4u ∨ c = .td2RibV4m ∨ c = .td2RibV6u ∨ c = .td2RibV6m ∨ c = .td2RibV4uAp ∨ c = .td2RibV4mAp ∨
      c = .td2RibV6uAp ∨ c = .td2RibV6mAp)
    (hn : classAfw c = some n) : Parse.body cfg c hdr = Parse.rib cfg n (classAp c) hdr := by
  rcases hc with rfl | rfl | rfl | rfl | rfl | rfl | rfl | rfl <;> cases hn <;> rfl

theorem body_eq_ribGeneric {cfg : Cfg} {c : RecordClass} {hdr : FrameHdr} (hc : c = .td2Ribg ∨ c = .td2RibgAp) :
    Parse.body cfg c hdr = Parse.ribGeneric cfg (classAp c) hdr := by
  rcases hc with rfl | rfl <;> rfl

/-- Settles O41: the fields of 30 R72 are read back one by one, and nothing after the window is looked at. -/
theorem tableDumpLayout : Obligations.TableDumpLayout := by
  intro i c s hdr r trail hi hc hfits hready
  refine exec_deliver_of_reads hi hready ?_
  cases r with
  | tableDump =>
    obtain ⟨rfl, -, hafw, hpeer, has, hattrs⟩ := hfits
    rw [body_eq_tableDump hc hafw]
    simp only [Record.wire, List.append_assoc]
    exact (reads_u16 _).bind <| (reads_u16 _).bind <| (reads_take rfl).bind <| (reads_u8 _).bind <|
      (reads_u8 _).bind <| (reads_u32 _).bind <| (reads_take hpeer).bind <|
      (reads_asNumber (wide := false) has).bind <| reads_attrsWire hattrs _
  | _ => rcases hc with rfl | rfl <;> simp [Record.fits] at hfits

/-- Settles O42: the name and the peers have the lengths that their counts declare. -/
theorem peerIndexTableLayout : Obligations.PeerIndexTableLayout := by
  intro s hdr r trail hfits hready
  refine exec_deliver_of_reads rfl hready ?_
  cases r with
  | peerIndexTable =>
    obtain ⟨rfl, -, hname, hpeers⟩ := hfits
    obtain ⟨vlen, hvlen, hread⟩ := reads_count hname
    simp only [Record.wire, List.append_assoc]
    exact (reads_u32 _).bind <| hread.bind <| (reads_take hvlen.symm).bind <|
      reads_counted hpeers (fun _ => reads_peer) _
  | _ => simp [Record.fits] at hfits

/-- Settles O43: address width and path identifier are the class's columns, on the wire and in the parser. -/
theorem ribLayout : Obligations.RibLayout := by
  intro i c s hdr r trail hi hc hfits hready
  refine exec_deliver_of_reads hi hready ?_
  cases r with
  | rib =>
    obtain ⟨rfl, -, hafw, hpfx, hentries⟩ := hfits
    rw [body_eq_rib hc hafw]
    simp only [Record.wire, List.append_assoc]
    exact (reads_u32 _).bind <| (reads_pfx _ hpfx).bind <| reads_counted hentries (fun _ => reads_ribEntry) _
  | _ => rcases hc with rfl | rfl | rfl | rfl | rfl | rfl | rfl | rfl <;> simp [Record.fits] at hfits

/-- Settles O44: the address has the width that `afi` selects. -/
theorem ribGenericLayout : Obligations.RibGenericLayout := by
  intro i c s hdr r trail hi hc hfits hready
  refine exec_deliver_of_reads hi hready ?_
  cases r with
  | ribGeneric =>
    obtain ⟨rfl, -, hafi, hpfx, hentries⟩ := hfits
    rw [body_eq_ribGeneric hc]
    simp only [Record.wire, List.append_assoc]
    refine (reads_u32 _).bind <| (reads_u16 _).bind <| (reads_u8 _).bind ?_
    rw [hafi]
    exact (reads_pfx _ hpfx).bind <| reads_counted hentries (fun _ => reads_ribEntry) _
  | _ => rcases hc with rfl | rfl <;> simp [Record.fits] at hfits

theorem reads_stateChange {cfg : Cfg} {wide : Bool} {head : B4Head} (hdr : FrameHdr) (old new : Half)
    (h : head.fits cfg (if wide then 4 else 2)) : Reads (Parse.stateChange cfg wide hdr)
      ((Record.stateChange hdr head old new).wire cfg) (.stateChange hdr head old new) := by
  simp only [Record.wire, List.append_assoc]
  exact (reads_b4Head h).bind <| (reads_u16 _).bind <| (reads_u16 _).map _

/-- Settles O45: a twin reads the body of its plain class. -/
theorem stateChangeLayout : Obligations.StateChangeLayout := by
  intro i c s hdr r trail hi hc hfits hready
  refine exec_deliver_of_reads hi hready ?_
  cases r with
  | stateChange =>
    obtain ⟨rfl, ⟨rfl, hhead⟩ | ⟨rfl, hhead⟩⟩ := hfits
    · exact reads_stateChange (wide := false) _ _ _ hhead
    · exact reads_stateChange (wide := true) _ _ _ hhead
  | _ => rcases hc with rfl | rfl <;> simp [Record.fits] at hfits

/-- Everything after the head goes to `BgpMsgDecode` (46 R162). -/
theorem message_of_fits {cfg : Cfg} {wide : Bool} {head : B4Head} (hdr : FrameHdr) (payload : Run)
    (h : head.fits cfg (if wide then 4 else 2)) : Parse.message cfg wide hdr (head.wire ++ payload) =
      match Config.bgpMsgDecode payload (if wide then 4 else 2) head.af with
      | some msg => .ok (.message hdr head msg, [])
      | none => .error .malformedRecord := by
  rw [Parse.message, Parse.bind_apply, reads_b4Head h payload]
  simp only [Parse.bind_apply, Parse.all]
  cases Config.bgpMsgDecode payload (if wide then 4 else 2) head.af <;> rfl

/-- Settles O46: what the head leaves of the body is the payload, and machine and statement put one question to
`BgpMsgDecode`. -/
theorem messageLayout : Obligations.MessageLayout := by
  intro i c asw s hdr head payload hi hc hhead hready
  rw [exec_ready hi hready]
  obtain ⟨wide, rfl, hbody⟩ : ∃ wide : Bool, asw = (if wide then 4 else 2) ∧
      Parse.body s.cfg c hdr = Parse.message s.cfg wide hdr := by
    rcases hc with ⟨rfl, rfl⟩ | ⟨rfl, rfl⟩
    · exact ⟨false, rfl, rfl⟩
    · exact ⟨true, rfl, rfl⟩
  rw [hbody, message_of_fits hdr payload hhead]
  cases Config.bgpMsgDecode payload (if wide then 4 else 2) head.af <;> rfl

end Sys2Proof.Machine

/-! PROOFS. The forms of the cursor (40_cursor R91 to R97): each integer form is the big-endian number of one extraction, whose
common law (40 R90) it inherits, and `REST` is the extraction of what is left. -/

namespace Sys2Proof.Machine

/-! ### The integer forms -/

section Integers

variable {w n c l : Nat} {s : State}

/-- An integer form whose width its `n` bytes have reads back the number they are the bytes of. -/
theorem extract_number_ok {v : BitVec w} (hw : 2 ^ w = 256 ^ n) (hc : s.cur = some c) (hl : s.lim = some l)
    (hn : c + n ≤ l) (hb : s.fb.readRun c n = some (toBe n v.toNat)) :
    (do let b ← extract n; pure (BitVec.ofNat w (be b)) : Op (BitVec w)) s = .ok v { s with cur := some (c + n) } := by
  rw [extract_map_ok _ (extract_ok hc hl hn hb), ofNat_be_toBe n v hw]

/-- An integer form stops where its extraction stops: with no byte consumed. -/
theorem extract_number_truncated (hc : s.cur = some c) (hl : s.lim = some l) (hn : l < c + n) :
    (do let b ← extract n; pure (BitVec.ofNat w (be b)) : Op (BitVec w)) s = .error (.raised .truncatedInput) s :=
  Op.bind_error (extract_truncated hc hl hn)

end Integers

/-- Settles O56: each form is a number of one extraction, of 1, 2, 4 or 8 bytes, and has its two laws. -/
theorem cursorReadsBigEndian : Obligations.CursorReadsBigEndian := by
  intro s c l hc hl
  refine ⟨fun _ => ?u8, fun _ => ?u16, fun _ => ?u32, fun _ => ?u64, ?_, ?_, ?_, ?_⟩
  case u8 => exact extract_number_ok (n := 1) (by norm_num) hc hl
  case u16 => exact extract_number_ok (n := 2) (by norm_num) hc hl
  case u32 => exact extract_number_ok (n := 4) (by norm_num) hc hl
  case u64 => exact extract_number_ok (n := 8) (by norm_num) hc hl
  all_goals exact extract_number_truncated hc hl

/-! ### The run of what is left -/

section Runs

variable {c : Nat} {s : State} {left : Run}

/-- All the bytes left, taken by their number, bring the cursor to the limit (40 R90). -/
theorem LeftAtCursor.bytes_length (h : LeftAtCursor s c left) :
    bytes left.length s = .ok left { s with cur := s.lim } := by
  obtain ⟨hc, hl, hb⟩ := h
  rw [bytes, extract_ok hc hl (Nat.le_refl _) hb, hl]

theorem LeftAtCursor.rest_eq (h : LeftAtCursor s c left) : rest s = .ok left { s with cur := s.lim } := by
  have htake := h.bytes_length
  obtain ⟨hc, hl, -⟩ := h
  rwa [rest_eq_bytes hc hl, Nat.add_sub_cancel_left]

/-- The empty run needs no byte before the limit and moves no cursor (40 R95). -/
theorem bytes_zero {l : Nat} (hc : s.cur = some c) (hl : s.lim = some l) (hle : c ≤ l) : bytes 0 s = .ok [] s := by
  rw [bytes, extract_ok hc hl hle (Memory.readRun_zero _ _), Nat.add_zero, ← hc]

end Runs

/-- Settles O58: `REST` is `BYTES` of the number of bytes left, which are all there. -/
theorem restTakesAll : Obligations.RestTakesAll := by
  intro s c left h
  refine ⟨h.rest_eq, ?_⟩
  obtain ⟨hc, hl, -⟩ := h
  exact bytes_zero hc hl (Nat.le_add_right _ _)

end Sys2Proof.Machine

/-! PROOFS. State `Dispatching` on a frame whose header is whole (41_frame_parser R104, R105): the fetch is the dispatch
map's answer to `TYPE` and `SUBTYPE`, which at most one row gives. -/

namespace Sys2Proof

open Sys2Proof.Machine (toBe ofNat_be_toBe_half)

/-- Settles O3: rows that are apart are hit by no pair together. -/
theorem dispatchRowsAreDisjoint : Obligations.DispatchRowsAreDisjoint := by
  intro cfg hcfg
  simp only [Cfg.wf, Bool.and_eq_true] at hcfg
  obtain ⟨⟨⟨⟨htypes, hsubs⟩, -⟩, -⟩, -⟩ := hcfg
  exact (frameRows_pairwise_apart htypes hsubs).imp FrameRow.Apart.not_both_hit

/-- The decoder on the bytes of a pair answers what the dispatch map says of the pair. -/
theorem decode_frame_pair (cfg : Cfg) (typ sub : Half) (rest : Run) :
    decode cfg .frame (toBe 2 typ.toNat ++ toBe 2 sub.toNat ++ rest) =
      (decodeFrame cfg typ sub).elim (.error (.unsupportedRecord typ sub)) fun i => .ok (i, rest) := by
  obtain ⟨a, b, hab⟩ : ∃ a b, toBe 2 typ.toNat = [a, b] := ⟨_, _, rfl⟩
  obtain ⟨c, d, hcd⟩ : ∃ c d, toBe 2 sub.toNat = [c, d] := ⟨_, _, rfl⟩
  have htyp := ofNat_be_toBe_half typ
  have hsub := ofNat_be_toBe_half sub
  rw [hab] at htyp ⊢
  rw [hcd] at hsub ⊢
  simp only [List.cons_append, List.nil_append, decode, htyp, hsub]
  cases decodeFrame cfg typ sub <;> rfl

/-- Every row has a class, so a pair without a class has no row (30 R63). -/
theorem decodeFrame_eq_none_of_dispatchClass {cfg : Cfg} {typ sub : Half} (h : dispatchClass cfg typ sub = none) :
    decodeFrame cfg typ sub = none := by
  refine Option.eq_none_iff_forall_ne_some.mpr fun i hi => ?_
  exact recordClass_ne_none_of_opcode (opcode_of_decodeFrame hi) (Option.bind_eq_none_iff.mp h i hi)

end Sys2Proof

namespace Sys2Proof.Machine

/-- A whole header is found whole, in either reading of `LEN` (30 R62). -/
theorem readHeaderCut_of_headerWhole {s : State} (h : HeaderWhole s) : readHeaderCut s = .ok false s := by
  cases hv : s.cfg.lenCountsUs with
  | false => exact readHeaderCut_default hv
  | true =>
    obtain ⟨et, len, het, hlen, hcut⟩ := h hv
    rw [readHeaderCut_some het hlen, hcut]

/-- The fetch of a frame whose header is whole, by the dispatch map (41 R104, R105). -/
theorem fetch_of_headerWhole {s : State} {typ sub : Half} (hfocus : s.focus = .frame) (htyp : s.typ = some typ)
    (hsub : s.subtyp = some sub) (hwhole : HeaderWhole s) :
    fetch s = .ok ((decodeFrame s.cfg typ sub).elim .unsupported .instr) s := by
  have hfetch : fetch s = fetchFrame s := by simp only [fetch, hfocus]
  have hdec := decode_frame_pair s.cfg typ sub []
  rw [List.append_nil] at hdec
  rw [hfetch, fetchFrame, Op.bind_ok (readHeaderCut_of_headerWhole hwhole), if_neg Bool.false_ne_true,
    Op.bind_ok (askCfg_apply _ _), Op.bind_ok (readReq_some htyp), Op.bind_ok (readReq_some hsub), id, hdec]
  cases decodeFrame s.cfg typ sub <;> rfl

/-- Settles O7: the pair's bytes decode to what the dispatch map says of the pair, and the fetch asks the map. -/
theorem stepRunsTheFrame : Obligations.StepRunsTheFrame := by
  intro s typ sub i rest hcalls hbusy hfsm hfocus htyp hsub hwhole hdec
  have hi : decodeFrame s.cfg typ sub = some i := by
    rw [decode_frame_pair] at hdec
    cases h : decodeFrame s.cfg typ sub <;> rw [h] at hdec <;> cases hdec
    rfl
  have hfetch := fetch_of_headerWhole hfocus htyp hsub hwhole
  rw [hi] at hfetch
  rw [step_eq_dispatchStep hcalls hbusy hfsm]
  exact dispatchStep_of_instr hfetch

/-- A pair of no row aborts the frame whatever its body holds (41 R104, 60 R189). -/
theorem dispatchStep_of_unsupported {s : State} {typ sub : Half} (hfocus : s.focus = .frame) (htyp : s.typ = some typ)
    (hsub : s.subtyp = some sub) (hwhole : HeaderWhole s) (hnone : dispatchClass s.cfg typ sub = none) :
    dispatchStep s = .next (abort .unsupportedRecord s) := by
  rw [dispatchStep, fetch_of_headerWhole hfocus htyp hsub hwhole, decodeFrame_eq_none_of_dispatchClass hnone]
  rfl

/-- Settles O9: the fetch finds no row before a byte of the body is looked at. -/
theorem unknownPairIsUnsupported : Obligations.UnknownPairIsUnsupported := by
  intro s typ sub hcalls hbusy hfsm hfocus htyp hsub hwhole hnone
  rw [step_eq_dispatchStep hcalls hbusy hfsm]
  exact dispatchStep_of_unsupported hfocus htyp hsub hwhole hnone

end Sys2Proof.Machine

/-! PROOFS. The acceptance of a `NEXT` (41_frame_parser R100) and the steps that make up a whole one. -/

namespace Sys2Proof.Machine

/-! ### Acceptance -/

/-- The state in which the stream reader takes over a `NEXT` (41 R100). -/
def State.accepted (s : State) : State :=
  { s.forget with busy := true }

@[simp] theorem State.accepted_cfg (s : State) : s.accepted.cfg = s.cfg := rfl
@[simp] theorem State.accepted_tsUsec (s : State) : s.accepted.tsUsec = none := rfl
@[simp] theorem State.accepted_ts (s : State) : s.accepted.ts = none := rfl

theorem headerNone_accepted (s : State) : HeaderNone s.accepted := ⟨rfl, rfl, rfl, rfl, rfl, rfl, rfl, rfl⟩

theorem acceptNext_of_done {s : State} (hbusy : s.busy = false) (hfsm : s.fsm = .done) :
    acceptNext s = .next (replay s.accepted) := by
  rw [acceptNext, hbusy, if_neg Bool.false_ne_true, if_pos hfsm]
  rfl

theorem acceptNext_of_live {s : State} (hbusy : s.busy = false) (hfsm : s.fsm ≠ .done) :
    acceptNext s = .next s.accepted := by
  rw [acceptNext, hbusy, if_neg Bool.false_ne_true, if_neg hfsm]
  rfl

/-- The caller of an idle block that asks for a `NEXT`, by its next act or past the end of its acts (assumption 4). -/
theorem step_eq_acceptNext {s : State} {cs : List CallerAct} (hbusy : s.busy = false)
    (hcalls : s.calls = .next :: cs ∨ s.calls = [] ∧ cs = []) : step s = acceptNext { s with calls := cs } := by
  rcases hcalls with h | ⟨h, rfl⟩
  · simp only [step, hearCaller, h]
  · have hsame : ({ s with calls := [] } : State) = s := by rw [← h]
    rw [hsame]
    simp [step, hearCaller, h, hbusy]

/-- The kind of a replay has the code that `TERM` holds (41 R100, 10_state R12). -/
theorem Term.code_replay (x : Term) : x.replay.code = x.code := by
  cases x <;> rfl

/-- Settles O14, by whether the stream has ended. -/
theorem nextIsAccepted : Obligations.NextIsAccepted := by
  intro s cs
  refine ⟨fun hbusy => if_pos hbusy, fun hbusy hcalls => ?_⟩
  rw [step_eq_acceptNext hbusy hcalls]
  by_cases hfsm : s.fsm = .done
  · refine ⟨_, acceptNext_of_done (s := { s with calls := cs }) hbusy hfsm, rfl,
      headerNone_accepted { s with calls := cs }, rfl,
      rfl, rfl, rfl, rfl, rfl, rfl, rfl, rfl, fun _ => ⟨rfl, ?_, rfl⟩, fun hne => absurd hfsm hne⟩
    exact congrArg some s.term.code_replay
  · exact ⟨_, acceptNext_of_live (s := { s with calls := cs }) hbusy hfsm, rfl,
      headerNone_accepted { s with calls := cs }, rfl,
      rfl, rfl, rfl, rfl, rfl, rfl, rfl, rfl, fun h => absurd h hfsm, fun _ => ⟨rfl, rfl⟩⟩

/-! ### The steps of a NEXT -/

theorem stepsUntilIdle_of_idle {s t : State} (k : Nat) (h : step s = .next t) (hbusy : t.busy = false) :
    stepsUntilIdle (k + 1) s = .next t := by
  simp [stepsUntilIdle, h, hbusy]

theorem stepsUntilIdle_of_busy {s t : State} (k : Nat) (h : step s = .next t) (hbusy : t.busy = true) :
    stepsUntilIdle (k + 1) s = stepsUntilIdle k t := by
  simp [stepsUntilIdle, h, hbusy]

/-- A step that changes nothing goes on for ever (70 R218). -/
theorem stepsUntilIdle_of_self {s : State} (k : Nat) (h : step s = .next s) : stepsUntilIdle k s = .next s := by
  induction k with
  | zero => rfl
  | succ k ih =>
    cases hbusy : s.busy with
    | false => exact stepsUntilIdle_of_idle k h hbusy
    | true => exact (stepsUntilIdle_of_busy k h hbusy).trans ih

theorem runNexts_of_runNext {s t : State} (n : Nat) (h : runNext s = .next t) :
    runNexts (n + 1) s = runNexts n t := by
  simp only [runNexts, h]

/-! ### The end of the stream, replayed -/

theorem runNext_of_done {s : State} (hbusy : s.busy = false) (hfsm : s.fsm = .done) (hcalls : s.calls = []) :
    runNext s = .next (replay s.accepted) := by
  refine stepsUntilIdle_of_idle 4 ?_ rfl
  rw [step_eq_acceptNext hbusy (.inr ⟨hcalls, rfl⟩), ← hcalls]
  exact acceptNext_of_done hbusy hfsm

/-- Settles O28, by induction on the number of `NEXT`s: a replay leaves the block as the next replay finds it. -/
theorem endIsReplayed : Obligations.EndIsReplayed := by
  intro n
  induction n with
  | zero =>
    intro s hbusy hfsm hcalls
    exact ⟨_, runNexts_of_runNext 0 (runNext_of_done hbusy hfsm hcalls), rfl, hfsm, rfl, rfl, rfl, rfl, rfl, rfl⟩
  | succ n ih =>
    intro s hbusy hfsm hcalls
    rw [runNexts_of_runNext (n + 1) (runNext_of_done hbusy hfsm hcalls)]
    exact ih (replay s.accepted) rfl hfsm hcalls

end Sys2Proof.Machine

/-! PROOFS. The stream reader state by state (41_frame_parser R101 to R103): one equation for each answer of the
supplier, and one for the decode of the 12 header bytes. -/

namespace Sys2Proof.Machine

/-- Inside a `NEXT`, with no act of the caller, the step is the block's own. -/
theorem step_eq_blockStep {s : State} (hcalls : s.calls = []) (hbusy : s.busy = true) : step s = blockStep s := by
  simp [step, hearCaller, hcalls, hbusy]

/-- The same in the three states of the reader, before `Dispatching`. -/
theorem step_eq_awaitHeader {s : State} (hcalls : s.calls = []) (hbusy : s.busy = true)
    (hfsm : s.fsm = .awaitingHeader) : step s = awaitHeader s := by
  rw [step_eq_blockStep hcalls hbusy]
  simp only [blockStep, hfsm]

theorem step_eq_haveHeader {s : State} (hcalls : s.calls = []) (hbusy : s.busy = true) (hfsm : s.fsm = .haveHeader) :
    step s = haveHeader s := by
  rw [step_eq_blockStep hcalls hbusy]
  simp only [blockStep, hfsm]

theorem step_eq_awaitBody {s : State} (hcalls : s.calls = []) (hbusy : s.busy = true) (hfsm : s.fsm = .awaitingBody) :
    step s = awaitBody s := by
  rw [step_eq_blockStep hcalls hbusy]
  simp only [blockStep, hfsm]

/-! ### The supplier's stream gives out -/

/-- Every byte the supplier had is gone from it and counted (20 R41). -/
def State.drained (s : State) : State :=
  { s with src := [], spos := s.spos + BitVec.ofNat 64 s.src.length }

/-- The bytes `b` are gone from the supplier and counted (20 R41). -/
def State.took (b : Run) (s : State) : State :=
  { s with src := s.src.drop b.length, spos := s.spos + BitVec.ofNat 64 b.length }

/-- What a read comes to that the supplier's bytes do not fill: the stream ends, with the kind `x` at its end and with
`UnderlyingIOError` at a failure, or a silent supplier leaves everything as it is (41 R101, R103, 70 R218). -/
def runOut (x : Term) (s : State) : State :=
  match s.srcEnd with
  | .eos => endStream x none s.drained
  | .ioerr e => endStream .underlyingIOError (some e) s.drained
  | .silent => s

theorem runOut_eos {x : Term} {s : State} (h : s.srcEnd = .eos) : runOut x s = endStream x none s.drained := by
  simp only [runOut, h]

theorem runOut_ioerr {x : Term} {s : State} {e : Nat} (h : s.srcEnd = .ioerr e) :
    runOut x s = endStream .underlyingIOError (some e) s.drained := by
  simp only [runOut, h]

theorem runOut_silent {x : Term} {s : State} (h : s.srcEnd = .silent) : runOut x s = s := by
  simp only [runOut, h]

/-! ### State AwaitingHeader -/

theorem awaitHeader_ok {s : State} (hcap : 12 ≤ s.cfg.fbCap) (h : 12 ≤ s.src.length) :
    awaitHeader s = .next { s with
      src := s.src.drop 12, spos := s.spos + 12, fb := s.fb.write 0 (s.src.take 12), fsm := .haveHeader } := by
  have hlen : (s.src.take 12).length = 12 := by simpa using h
  rw [awaitHeader, srcRead, if_pos h]
  simp only [settle]
  rw [Op.bind_ok (memWrite_ok (by simpa only [hlen, Nat.zero_add] using hcap))]
  rfl

/-- The kind of a stream that ends at the header: a clean end only before its first byte (41 R101). -/
def headerEnd (src : Run) : Term :=
  if src.isEmpty then .endOfStream else .truncatedInput

theorem headerEnd_of_pos {src : Run} (h : 0 < src.length) : headerEnd src = .truncatedInput :=
  if_neg (by simpa using List.ne_nil_of_length_pos h)

theorem awaitHeader_short {s : State} (h : s.src.length < 12) :
    awaitHeader s = .next (runOut (headerEnd s.src) s) := by
  unfold awaitHeader
  obtain ⟨hlen, -⟩ | ⟨-, hend, hr⟩ | ⟨e, -, hend, hr⟩ | ⟨-, hend, hr⟩ := srcRead_cases 12 s
  · omega
  · rw [hr, runOut_eos hend, State.drained]
    cases s.src <;> rfl
  · rw [hr, runOut_ioerr hend]
    rfl
  · rw [hr, runOut_silent hend]

/-- Settles O15: the bytes are there, or the stream gives out with its mark. -/
theorem headerIsAwaited : Obligations.HeaderIsAwaited := by
  intro s hcalls hbusy hfsm hcap
  rw [step_eq_awaitHeader hcalls hbusy hfsm]
  refine ⟨awaitHeader_ok hcap, fun e hshort hend => ?_, fun hnil hend => ?_, fun hpos hshort hend => ?_⟩
  · rw [awaitHeader_short hshort, runOut_ioerr hend]
    exact ⟨_, rfl, rfl, rfl, rfl, rfl, rfl, rfl, rfl⟩
  · rw [awaitHeader_short (by simp [hnil]), runOut_eos hend]
    refine ⟨_, rfl, ?_, rfl, ?_, rfl, ?_⟩ <;> simp [headerEnd, State.drained, hnil, Term.replay]
  · rw [awaitHeader_short hshort, runOut_eos hend, headerEnd_of_pos hpos]
    exact ⟨_, rfl, rfl, rfl, rfl, rfl, rfl, rfl⟩

/-! ### State HaveHeader -/

/-- The parts of a run stand one after the other. -/
theorem Memory.readRun_append {m : Memory} {a n : Nat} {b c : Run} (h : m.readRun a n = some (b ++ c)) :
    m.readRun a b.length = some b ∧ m.readRun (a + b.length) c.length = some c := by
  have hn := Memory.readRun_length _ _ _ _ h
  rw [List.length_append] at hn
  obtain ⟨hb, hc⟩ := Memory.readRun_take_drop m a b.length c.length _ (hn ▸ h)
  rw [List.take_left] at hb
  rw [List.drop_left] at hc
  exact ⟨hb, hc⟩

/-- The decode of the header whose bytes are in `FB` (30 R60, 41 R102). -/
theorem haveHeader_eq {s : State} {sec : Word} {typ sub : Half} {len : Word}
    (h : s.fb.readRun 0 12 = some (encodeHeader sec typ sub len)) :
    haveHeader s = .next { s with
      tsSec := some sec, typ := some typ, subtyp := some sub, len := some len, et := some (isEt s.cfg typ),
      hlen := some (headerLen (isEt s.cfg typ)), fsm := .awaitingBody } := by
  obtain ⟨h8, hlen⟩ := Memory.readRun_append h
  obtain ⟨h6, hsub⟩ := Memory.readRun_append h8
  obtain ⟨hsec, htyp⟩ := Memory.readRun_append h6
  simp only [List.length_append, toBe_length, Nat.zero_add, Nat.reduceAdd] at hsec htyp hsub hlen
  rw [haveHeader, readHeader, Op.bind_ok (memRead_some hsec), Op.bind_ok (memRead_some htyp),
    Op.bind_ok (memRead_some hsub), Op.bind_ok (memRead_some hlen), update_apply]
  simp only [ofNat_be_toBe_word, ofNat_be_toBe_half]
  rfl

/-- Settles O16: each field is read back from its own bytes, and none is range-checked. -/
theorem headerIsDecoded : Obligations.HeaderIsDecoded := by
  intro s sec typ sub len hcalls hbusy hfsm h
  rw [step_eq_haveHeader hcalls hbusy hfsm]
  exact haveHeader_eq h

/-! ### State AwaitingBody -/

/-- The bytes after the first 12 (30 R61, R62): `LEN`, and the microsecond field where `LEN` does not count it. -/
theorem bodyNeed_eq (cfg : Cfg) (et : Bool) (len : Word) :
    bodyNeed cfg et len = (if et && !cfg.lenCountsUs then 4 else 0) + len.toNat := by
  unfold bodyNeed frameLen headerLen countsUs
  cases et <;> cases cfg.lenCountsUs <;> simp
  omega

section AwaitBody

variable {s : State} {et : Bool} {sec len : Word} {b : Run}

theorem readNeed_some (het : s.et = some et) (hlen : s.len = some len) :
    readNeed s = .ok (bodyNeed s.cfg et len) s := by
  rw [readNeed, Op.bind_ok (askCfg_apply _ _), Op.bind_ok (readReq_some het), Op.bind_ok (readReq_some hlen)]
  rfl

theorem awaitBody_short (het : s.et = some et) (hlen : s.len = some len) (h : s.src.length < bodyNeed s.cfg et len) :
    awaitBody s = .next (runOut .truncatedInput s) := by
  rw [awaitBody, readNeed_some het hlen, outcome]
  obtain ⟨hlen, -⟩ | ⟨-, hend, hr⟩ | ⟨e, -, hend, hr⟩ | ⟨-, hend, hr⟩ := srcRead_cases (bodyNeed s.cfg et len) s
  · omega
  · rw [hr, runOut_eos hend]
    rfl
  · rw [hr, runOut_ioerr hend]
    rfl
  · rw [hr, runOut_silent hend]

/-- The buffer of 00_scope R4 has room for every frame. -/
theorem room_of_bodyNeed (hcap : 16 + (2 ^ 32 - 1) ≤ s.cfg.fbCap) (hb : b.length = bodyNeed s.cfg et len) :
    12 + b.length ≤ s.cfg.fbCap := by
  rw [hb, twelve_add_bodyNeed]
  exact (frameLen_le _ _ _).trans hcap

theorem awaitBody_ok (het : s.et = some et) (hlen : s.len = some len) (hb : b.length = bodyNeed s.cfg et len)
    (hsrc : b = s.src.take b.length) :
    awaitBody s = settle (takeBody b (s.took b)) := by
  have hle : b.length ≤ s.src.length := by
    rw [hsrc, List.length_take]
    exact Nat.min_le_right _ _
  rw [awaitBody, readNeed_some het hlen, ← hb]
  simp only [outcome, srcRead, if_pos hle, ← hsrc, State.took]

/-- `TS_USEC` (41 R103): the microsecond field of an extended frame, which its bytes after the first 12 begin with, or
0. -/
def microseconds (et : Bool) (b : Run) : Word :=
  if et then BitVec.ofNat 32 (be (b.take 4)) else 0

/-- A cut header's microsecond field has no value (assumption 12). -/
theorem takeBody_of_cut (hcap : 12 + b.length ≤ s.cfg.fbCap) (het : s.et = some et) (hlen : s.len = some len)
    (hsec : s.tsSec = some sec) (hcut : headerCut s.cfg et len = true) :
    takeBody b s = .ok () { s with fb := s.fb.write 12 b, fsm := .dispatching } := by
  have htime := (readTimestamp_eq (t := { s with fb := s.fb.write 12 b }) het hlen hsec).1 hcut
  rw [takeBody, Op.bind_ok (memWrite_ok hcap), Op.bind_ok htime]
  rfl

theorem takeBody_of_whole (hcap : 12 + b.length ≤ s.cfg.fbCap) (het : s.et = some et) (hlen : s.len = some len)
    (hsec : s.tsSec = some sec) (hcut : headerCut s.cfg et len = false) (hb : b.length = bodyNeed s.cfg et len) :
    takeBody b s = .ok () { s with
      fb := s.fb.write 12 b, tsUsec := some (microseconds et b),
      ts := some (timestamp s.cfg sec (microseconds et b)), fsm := .dispatching } := by
  have husec : et = true → (s.fb.write 12 b).readRun 12 4 = some (b.take 4) := by
    rintro rfl
    have hfour : 4 ≤ b.length := by
      have := microseconds_in_frame hcut
      rw [← twelve_add_bodyNeed] at this
      omega
    have hall := Memory.readRun_write_self s.fb 12 b
    rw [← Nat.add_sub_cancel' hfour] at hall
    exact (Memory.readRun_take_drop _ _ _ _ _ hall).1
  have htime := (readTimestamp_eq (t := { s with fb := s.fb.write 12 b }) het hlen hsec).2 hcut _ husec _ rfl
  rw [takeBody, Op.bind_ok (memWrite_ok hcap), Op.bind_ok htime]
  rfl

/-- The bytes the frame lacks, taken, make it whole in `FB` and give `TS_USEC` and `TS` values (41 R103). -/
theorem awaitBody_of_whole (hcap : 16 + (2 ^ 32 - 1) ≤ s.cfg.fbCap) (hsec : s.tsSec = some sec) (het : s.et = some et)
    (hlen : s.len = some len) (hb : b.length = bodyNeed s.cfg et len) (hsrc : b = s.src.take b.length)
    (hcut : headerCut s.cfg et len = false) :
    awaitBody s = .next { s.took b with
      fb := s.fb.write 12 b, tsUsec := some (microseconds et b),
      ts := some (timestamp s.cfg sec (microseconds et b)), fsm := .dispatching } := by
  rw [awaitBody_ok het hlen hb hsrc, takeBody_of_whole (s := s.took b) (room_of_bodyNeed hcap hb) het hlen hsec hcut hb]
  rfl

/-- A frame whose header is cut is taken like any other, and no time is read from it (assumption 12). -/
theorem awaitBody_of_cut (hcap : 16 + (2 ^ 32 - 1) ≤ s.cfg.fbCap) (hsec : s.tsSec = some sec) (het : s.et = some et)
    (hlen : s.len = some len) (hb : b.length = bodyNeed s.cfg et len) (hsrc : b = s.src.take b.length)
    (hcut : headerCut s.cfg et len = true) :
    awaitBody s = .next { s.took b with fb := s.fb.write 12 b, fsm := .dispatching } := by
  rw [awaitBody_ok het hlen hb hsrc, takeBody_of_cut (s := s.took b) (room_of_bodyNeed hcap hb) het hlen hsec hcut]
  rfl

end AwaitBody

/-- The microsecond field is four bytes and fits its register. -/
theorem microseconds_toNat (et : Bool) (b : Run) :
    (microseconds et b).toNat = if et then be (b.take 4) else 0 := by
  unfold microseconds
  cases et with
  | false => rfl
  | true =>
    refine Nat.mod_eq_of_lt ((be_lt _).trans_le ?_)
    exact (Nat.pow_le_pow_right (by norm_num) (List.length_take_le 4 b)).trans_eq (by norm_num)

/-- A header is whole unless `LEN` is to count a microsecond field it has no room for (30 R62). -/
theorem headerCut_eq_false_iff {cfg : Cfg} {et : Bool} {len : Word} :
    headerCut cfg et len = false ↔ (et = true → cfg.lenCountsUs = true → 4 ≤ len.toNat) := by
  unfold headerCut countsUs
  cases et <;> cases cfg.lenCountsUs <;> simp

/-- Settles O17: the bytes join the header in `FB`, and the time is read from them unless the header is cut. -/
theorem bodyIsTaken : Obligations.BodyIsTaken := by
  intro s sec et len b hcalls hbusy hfsm hcap hsec het hlen hb hsrc
  rw [← bodyNeed_eq] at hb
  rw [step_eq_awaitBody hcalls hbusy hfsm]
  refine ⟨fun hwhole => ?_, fun het' hus hfour => ?_⟩
  · have hcut := headerCut_eq_false_iff.mpr hwhole
    exact ⟨microseconds et b, microseconds_toNat et b, timestamp s.cfg sec (microseconds et b), timestamp_toNat _ _ _,
      awaitBody_of_whole hcap hsec het hlen hb hsrc hcut⟩
  · have hcut : headerCut s.cfg et len = true := by simp [headerCut, countsUs, het', hus, hfour]
    exact awaitBody_of_cut hcap hsec het hlen hb hsrc hcut

/-- Settles O18: the stream's end empties everything but the header registers, and no kind is a clean end. -/
theorem cutBodyEndsTheStream : Obligations.CutBodyEndsTheStream := by
  intro s et len hcalls hbusy hfsm het hlen husec hts hshort hanswers
  have hstep : step s = .next (runOut .truncatedInput s) := by
    rw [← bodyNeed_eq] at hshort
    rw [step_eq_awaitBody hcalls hbusy hfsm, awaitBody_short het hlen hshort]
  cases hend : s.srcEnd with
  | eos =>
    rw [runOut_eos hend] at hstep
    exact ⟨_, hstep, rfl, rfl, rfl, rfl, rfl, rfl, rfl, rfl, rfl, rfl, rfl, husec, hts, noContext_leaveFrame s.drained,
      fun _ => rfl, fun _ => ⟨rfl, rfl, rfl⟩, nofun⟩
  | ioerr e =>
    rw [runOut_ioerr hend] at hstep
    refine ⟨_, hstep, rfl, rfl, rfl, rfl, rfl, rfl, rfl, rfl, rfl, rfl, rfl, husec, hts, noContext_leaveFrame s.drained,
      fun _ => rfl, nofun, fun e' he => ?_⟩
    cases he
    exact ⟨rfl, rfl, rfl⟩
  | silent => exact absurd hend hanswers

end Sys2Proof.Machine

/-! PROOFS. The table of state transitions (41_frame_parser R106), row by row from the invariant. -/

namespace Sys2Proof.Machine

/-- The changes of `FSM` that the table names (41 R106). -/
def transitionTable : List (Fsm × Fsm) :=
  [(.awaitingHeader, .haveHeader), (.awaitingHeader, .done), (.haveHeader, .awaitingBody),
    (.awaitingBody, .dispatching), (.awaitingBody, .done), (.dispatching, .awaitingHeader)]

/-- The rows of a read that the supplier's bytes do not fill, by the supplier's mark. -/
structure RunOutRows (x : Term) (s t : State) : Prop where
  eos : s.srcEnd = .eos → t.fsm = .done ∧ t.res = some x.replay
  ioerr : ∀ e, s.srcEnd = .ioerr e → t.fsm = .done ∧ t.res = some .underlyingIOError
  silent : s.srcEnd = .silent → t = s
  fsm : t.fsm = .done ∨ t = s

theorem runOut_rows (x : Term) (s : State) : RunOutRows x s (runOut x s) where
  eos h := by rw [runOut_eos h]; exact ⟨rfl, rfl⟩
  ioerr e h := by rw [runOut_ioerr h]; exact ⟨rfl, rfl⟩
  silent h := runOut_silent h
  fsm := by
    cases h : s.srcEnd with
    | eos => rw [runOut_eos h]; exact .inl rfl
    | ioerr e => rw [runOut_ioerr h]; exact .inl rfl
    | silent => exact .inr (runOut_silent h)

section Rows

variable {s t : State}

theorem awaitHeader_rows (hcap : 12 ≤ s.cfg.fbCap) (hs : awaitHeader s = .next t) :
    (12 ≤ s.src.length → t.fsm = .haveHeader) ∧ (s.src.length < 12 → RunOutRows (headerEnd s.src) s t) := by
  refine ⟨fun h => ?_, fun h => ?_⟩
  · rw [awaitHeader_ok hcap h] at hs
    cases hs
    rfl
  · rw [awaitHeader_short h] at hs
    cases hs
    exact runOut_rows _ s

theorem haveHeader_fsm (hcovers : Covers s 12) (hs : haveHeader s = .next t) : t.fsm = .awaitingBody := by
  obtain ⟨sec, typ, sub, len, hr⟩ := haveHeader_next hcovers
  rw [hr] at hs
  cases hs
  rfl

theorem awaitBody_rows {et : Bool} {len : Word} (h : InNext s) (hread : HeaderRead s) (het : s.et = some et)
    (hlen : s.len = some len) (hs : awaitBody s = .next t) :
    (bodyNeed s.cfg et len ≤ s.src.length → t.fsm = .dispatching) ∧
      (s.src.length < bodyNeed s.cfg et len → RunOutRows .truncatedInput s t) := by
  obtain ⟨sec, -, -, -, hsec, -⟩ := hread.values
  refine ⟨fun hle => ?_, fun hlt => ?_⟩
  · have hb : (s.src.take (bodyNeed s.cfg et len)).length = bodyNeed s.cfg et len := List.length_take_of_le hle
    have hsrc := congrArg s.src.take hb.symm
    cases hcut : headerCut s.cfg et len with
    | true =>
      rw [awaitBody_of_cut h.cap hsec het hlen hb hsrc hcut] at hs
      cases hs
      rfl
    | false =>
      rw [awaitBody_of_whole h.cap hsec het hlen hb hsrc hcut] at hs
      cases hs
      rfl
  · rw [awaitBody_short het hlen hlt] at hs
    cases hs
    exact runOut_rows _ s

end Rows

/-! ### A frame's result is per-frame -/

/-- An error of a frame leaves the stream live (60 R180). -/
theorem Raise.perFrame_kind (q : Raise) : q.kind.perFrame .live = true := by
  cases q <;> rfl

/-- A frame instruction ends with a result after which the stream goes on (41 R104). -/
theorem exec_next_perFrame {i : Instr} {c : RecordClass} {s t : State} (hi : i.recordClass = some c)
    (h : exec i s = .next t) : ∃ k, t.res = some k ∧ k.perFrame .live = true := by
  rw [exec_eq_runClass hi] at h
  obtain ⟨r, u, -, rfl⟩ | ⟨q, u, -, rfl⟩ := finish_next h
  · exact ⟨.record, rfl, rfl⟩
  · exact ⟨q.kind, rfl, q.perFrame_kind⟩

theorem dispatchStep_next_perFrame {s t : State} (h : HeaderRead s) (hfocus : s.focus = .frame)
    (hs : dispatchStep s = .next t) : t.fsm = .awaitingHeader ∧ ∃ k, t.res = some k ∧ k.perFrame .live = true := by
  have hfsm : t.fsm = .awaitingHeader := by
    obtain ⟨k, r, rfl, -⟩ := dispatchStep_next_endFrame h hfocus hs
    rfl
  refine ⟨hfsm, ?_⟩
  have hfetch : fetch s = fetchFrame s := by simp only [fetch, hfocus]
  unfold dispatchStep at hs
  obtain hr | hr | ⟨i, c, hi, hr⟩ := fetchFrame_cases h <;> rw [hfetch, hr] at hs
  · cases hs
    exact ⟨.truncatedInput, rfl, rfl⟩
  · cases hs
    exact ⟨.unsupportedRecord, rfl, rfl⟩
  · exact exec_next_perFrame hi hs

/-! ### The table -/

/-- Inside a `NEXT` the block's step keeps `FSM` or makes a change of the table. -/
theorem blockStep_transition {s t : State} (h : BlockInv s) (hbusy : s.busy = true) (hs : blockStep s = .next t) :
    t.fsm = s.fsm ∨ (s.fsm, t.fsm) ∈ transitionTable := by
  obtain ⟨hin, hagree⟩ := (blockInv_iff_of_busy hbusy).mp h
  have hcap := hin.cap
  unfold blockStep at hs
  cases hf : s.fsm with
  | awaitingHeader =>
    simp only [hf] at hs
    obtain ⟨hok, hshort⟩ := awaitHeader_rows (by omega) hs
    rcases Nat.lt_or_ge s.src.length 12 with hlt | hge
    · rcases (hshort hlt).fsm with ht | rfl
      · rw [ht]
        exact .inr (by decide)
      · exact .inl hf
    · rw [hok hge]
      exact .inr (by decide)
  | haveHeader =>
    simp only [hf] at hs
    obtain ⟨-, hcovers, -⟩ := (busyAgrees_haveHeader hf).mp hagree
    rw [haveHeader_fsm hcovers hs]
    exact .inr (by decide)
  | awaitingBody =>
    simp only [hf] at hs
    obtain ⟨-, -, hread, -⟩ := (busyAgrees_awaitingBody hf).mp hagree
    obtain ⟨-, typ, -, len, -, -, -, hlen, het, -⟩ := hread.values
    obtain ⟨hok, hshort⟩ := awaitBody_rows hin hread het hlen hs
    rcases Nat.lt_or_ge s.src.length (bodyNeed s.cfg (isEt s.cfg typ) len) with hlt | hge
    · rcases (hshort hlt).fsm with ht | rfl
      · rw [ht]
        exact .inr (by decide)
      · exact .inl hf
    · rw [hok hge]
      exact .inr (by decide)
  | dispatching =>
    simp only [hf] at hs
    obtain ⟨-, -, hread, -⟩ := (busyAgrees_dispatching hf).mp hagree
    obtain ⟨-, -, -, -, -, -, -, -, -, hfocus, -⟩ := hin.context
    rw [(dispatchStep_next_perFrame hread hfocus hs).1]
    exact .inr (by decide)
  | done => exact absurd hf hin.notDone

theorem acceptNext_fsm {s t : State} (hs : acceptNext s = .next t) : t.fsm = s.fsm := by
  obtain ⟨-, hr⟩ | ⟨-, -, hr⟩ | ⟨-, -, hr⟩ := acceptNext_cases s <;> rw [hr] at hs <;> cases hs <;> rfl

/-- A step keeps `FSM`, or is a reset, or makes a change of the table. -/
theorem step_transition {s t : State} (h : BlockInv s) (hs : step s = .next t) :
    t.fsm = s.fsm ∨ s.calls.head? = some .reset ∨ (s.fsm, t.fsm) ∈ transitionTable := by
  unfold step at hs
  obtain ⟨cs, hbusy, hr⟩ | ⟨cs, -, hr⟩ | ⟨cs, -, hr⟩ | ⟨cs, hcalls, hr⟩ | ⟨r, cs, -, ⟨-, hr⟩ | ⟨-, hr⟩⟩ :=
    hearCaller_cases s <;> simp only [hr] at hs
  · rcases blockStep_transition (s := { s with calls := cs }) h hbusy hs with hkeep | hrow
    · exact .inl hkeep
    · exact .inr (.inr hrow)
  · cases hs
    exact .inl rfl
  · exact .inl (acceptNext_fsm (s := { s with calls := cs }) hs)
  · rw [hcalls]
    exact .inr (.inl rfl)
  · cases hs
    exact .inl rfl
  · cases hs

/-- Settles O20: what a step can change, and the rows of the states that a `NEXT` goes through, each from its own
equations. -/
theorem transitionsAreTheTable : Obligations.TransitionsAreTheTable := by
  refine ⟨rfl, fun _ => rfl, fun s t h hs => ⟨step_transition h hs, fun hcalls => ?_⟩⟩
  have hblock : s.busy = true → blockStep s = .next t := fun hbusy => (step_eq_blockStep hcalls hbusy).symm.trans hs
  refine ⟨fun hidle => ?idle, fun hbusy hf => ?header, fun hbusy hf => ?decode, fun hbusy hf et len het hlen => ?body,
    fun hbusy hf => ?dispatch⟩
  case idle =>
    rw [step_eq_acceptNext hidle (.inr ⟨hcalls, rfl⟩)] at hs
    exact acceptNext_fsm (s := { s with calls := [] }) hs
  all_goals
    obtain ⟨hin, hagree⟩ := (blockInv_iff_of_busy hbusy).mp h
    have hs := hblock hbusy
    simp only [blockStep, hf] at hs
  case header =>
    have hcap := hin.cap
    obtain ⟨hok, hshort⟩ := awaitHeader_rows (by omega) hs
    refine ⟨hok, fun hnil hend => ?_, fun hpos hlt hend => ?_, fun e hlt => (hshort hlt).ioerr e,
      fun hlt => (hshort hlt).silent⟩
    · have hrow := (hshort (by simp [hnil])).eos hend
      rwa [headerEnd, hnil] at hrow
    · have hrow := (hshort hlt).eos hend
      rwa [headerEnd_of_pos hpos] at hrow
  case decode =>
    obtain ⟨-, hcovers, -⟩ := (busyAgrees_haveHeader hf).mp hagree
    exact haveHeader_fsm hcovers hs
  case body =>
    obtain ⟨-, -, hread, -⟩ := (busyAgrees_awaitingBody hf).mp hagree
    obtain ⟨hok, hshort⟩ := awaitBody_rows hin hread het hlen hs
    exact ⟨hok, fun hlt => (hshort hlt).eos, fun e hlt => (hshort hlt).ioerr e, fun hlt => (hshort hlt).silent⟩
  case dispatch =>
    obtain ⟨-, -, hread, -⟩ := (busyAgrees_dispatching hf).mp hagree
    obtain ⟨-, -, -, -, -, -, -, -, -, hfocus, -⟩ := hin.context
    exact dispatchStep_next_perFrame hread hfocus hs

end Sys2Proof.Machine

/-! PROOFS. A frame on the wire and in the buffer (30_encoding R60 to R62): its 12 header bytes by their fields, the
bytes after them, and what its body comes to in state `Dispatching` (41_frame_parser R104). -/

namespace Sys2Proof.Machine

/-! ### The header on the wire -/

/-- The fields of the 12 common header bytes (30 R60). -/
structure WireHeader where
  sec : Word
  typ : Half
  sub : Half
  len : Word

namespace WireHeader

/-- The 12 bytes (30 R60). -/
def bytes (h : WireHeader) : Run :=
  encodeHeader h.sec h.typ h.sub h.len

/-- The header's `ET` (10_state R13). -/
def et (cfg : Cfg) (h : WireHeader) : Bool :=
  isEt cfg h.typ

/-- The bytes the frame has after its first 12 (41 R103). -/
def need (cfg : Cfg) (h : WireHeader) : Nat :=
  bodyNeed cfg (h.et cfg) h.len

/-- The header is cut (variant of 30 R62). -/
def cut (cfg : Cfg) (h : WireHeader) : Bool :=
  headerCut cfg (h.et cfg) h.len

@[simp] theorem length_bytes (h : WireHeader) : h.bytes.length = 12 := by
  simp [bytes, encodeHeader]

theorem cut_eq_false {cfg : Cfg} (h : WireHeader) (hus : cfg.lenCountsUs = false) : h.cut cfg = false :=
  headerCut_eq_false_iff.mpr fun _ hv => by simp [hus] at hv

theorem need_eq {cfg : Cfg} (h : WireHeader) (hus : cfg.lenCountsUs = false) :
    h.need cfg = (if h.et cfg then 4 else 0) + h.len.toNat := by
  simp [need, bodyNeed_eq, hus]

end WireHeader

/-- A run is the bytes of the number it is read as. -/
theorem toBe_ofNat_be {w n : Nat} {b : Run} (hw : 2 ^ w = 256 ^ n) (hb : b.length = n) :
    toBe n (BitVec.ofNat w (be b)).toNat = b := by
  subst hb
  rw [BitVec.toNat_ofNat, hw, Nat.mod_eq_of_lt (be_lt b)]
  exact toBe_be b

/-- Every 12 bytes are a header (41 R102). -/
theorem exists_wireHeader {stream : Run} (h : 12 ≤ stream.length) :
    ∃ (hd : WireHeader) (rest : Run), stream = hd.bytes ++ rest := by
  refine ⟨⟨.ofNat 32 (be (stream.take 4)), .ofNat 16 (be ((stream.drop 4).take 2)),
    .ofNat 16 (be ((stream.drop 6).take 2)), .ofNat 32 (be ((stream.drop 8).take 4))⟩, stream.drop 12, ?_⟩
  have hbytes : stream.take 12 = stream.take 4 ++ (stream.drop 4).take 2 ++ (stream.drop 6).take 2 ++
      (stream.drop 8).take 4 := by
    rw [← List.take_add, ← List.take_add, ← List.take_add]
  rw [WireHeader.bytes, encodeHeader, toBe_ofNat_be (by norm_num), toBe_ofNat_be (by norm_num),
    toBe_ofNat_be (by norm_num), toBe_ofNat_be (by norm_num), ← hbytes, List.take_append_drop]
  all_goals
    simp only [List.length_take, List.length_drop]
    omega

/-! ### What a frame comes to -/

/-- The Record header of a frame whose bytes after the first 12 are `b` (10_state R14, R22). -/
def WireHeader.recordHdr (cfg : Cfg) (h : WireHeader) (b : Run) : FrameHdr :=
  ⟨timestamp cfg h.sec (microseconds (h.et cfg) b), h.typ, h.sub⟩

/-- The body: what follows the header, 12 or 16 bytes long. -/
def WireHeader.body (cfg : Cfg) (h : WireHeader) (b : Run) : Run :=
  b.drop (if h.et cfg then 4 else 0)

/-- The result of a frame and its Record by the dispatch map and the body's parser (41 R104, R110). -/
def bodyVerdict (cfg : Cfg) (hdr : FrameHdr) (body : Run) : ResKind × Option Record :=
  (dispatchClass cfg hdr.type hdr.subtype).elim (.unsupportedRecord, none) fun c =>
    Parse.verdict (Parse.body cfg c hdr body)

/-- The result of a frame and its Record; in the variant of 30 R62 a cut header comes first (assumption 12). -/
def WireHeader.verdict (cfg : Cfg) (h : WireHeader) (b : Run) : ResKind × Option Record :=
  if h.cut cfg then (.truncatedInput, none) else bodyVerdict cfg (h.recordHdr cfg b) (h.body cfg b)

theorem WireHeader.verdict_eq {cfg : Cfg} (h : WireHeader) (hus : cfg.lenCountsUs = false) (b : Run) :
    h.verdict cfg b = (dispatchClass cfg h.typ h.sub).elim (.unsupportedRecord, none) fun c =>
      Parse.verdict (Parse.body cfg c (h.recordHdr cfg b) (h.body cfg b)) := by
  rw [WireHeader.verdict, h.cut_eq_false hus]
  rfl

theorem bodyVerdict_perFrame (cfg : Cfg) (hdr : FrameHdr) (body : Run) :
    (bodyVerdict cfg hdr body).1.perFrame .live = true := by
  unfold bodyVerdict
  cases dispatchClass cfg hdr.type hdr.subtype with
  | none => rfl
  | some c =>
    show (Parse.verdict (Parse.body cfg c hdr body)).1.perFrame .live = true
    cases Parse.body cfg c hdr body with
    | ok r => rfl
    | error q => exact q.perFrame_kind

theorem WireHeader.verdict_perFrame (cfg : Cfg) (h : WireHeader) (b : Run) :
    (h.verdict cfg b).1.perFrame .live = true := by
  unfold WireHeader.verdict
  split
  · rfl
  · exact bodyVerdict_perFrame _ _ _

/-- A Record is delivered or an error taken: the frame ends with the parser's verdict (41 R104). -/
theorem concluded_eq_endFrame (r : Except Raise (Record × Run)) (s : State) :
    concluded r s = endFrame (Parse.verdict r).1 (Parse.verdict r).2 s := by
  cases r <;> rfl

/-- State `Dispatching` on a frame ready for dispatch (41 R104). -/
theorem dispatchStep_of_ready {s : State} {hdr : FrameHdr} {body : Run} (hfocus : s.focus = .frame)
    (hwhole : HeaderWhole s) (h : Ready s hdr body) :
    dispatchStep s = .next (endFrame (bodyVerdict s.cfg hdr body).1 (bodyVerdict s.cfg hdr body).2 s) := by
  have hready := h
  obtain ⟨-, htyp, hsub, -⟩ := h
  unfold bodyVerdict
  cases hclass : dispatchClass s.cfg hdr.type hdr.subtype with
  | none => exact dispatchStep_of_unsupported hfocus htyp hsub hwhole hclass
  | some c =>
    obtain ⟨i, hi, hc⟩ := Option.bind_eq_some_iff.mp hclass
    have hfetch := fetch_of_headerWhole hfocus htyp hsub hwhole
    rw [hi] at hfetch
    rw [dispatchStep_of_instr hfetch, exec_ready hc hready, concluded_eq_endFrame]
    rfl

/-! ### The stages of a NEXT -/

/-- The header's bytes are in `FB`: state `HaveHeader`, with `rest` still at the supplier (41 R101). -/
def State.atHeader (s : State) (h : WireHeader) (rest : Run) : State :=
  { s.accepted with src := rest, spos := s.spos + 12, fb := s.fb.write 0 h.bytes, fsm := .haveHeader }

/-- They are decoded: state `AwaitingBody` (41 R102). -/
def State.headed (s : State) (h : WireHeader) (rest : Run) : State :=
  { s.atHeader h rest with
    tsSec := some h.sec, typ := some h.typ, subtyp := some h.sub, len := some h.len, et := some (h.et s.cfg),
    hlen := some (headerLen (h.et s.cfg)), fsm := .awaitingBody }

/-- `TS_USEC` of a frame whose bytes after the first 12 are `b`; none where the header is cut (assumption 12). -/
def WireHeader.usec (cfg : Cfg) (h : WireHeader) (b : Run) : Option Word :=
  if h.cut cfg then none else some (microseconds (h.et cfg) b)

/-- The frame is whole in `FB`: state `Dispatching`, with `more` still at the supplier (41 R103). -/
def State.loaded (s : State) (h : WireHeader) (b more : Run) : State :=
  { s.headed h more with
    spos := s.spos + 12 + BitVec.ofNat 64 b.length, fb := (s.fb.write 0 h.bytes).write 12 b, tsUsec := h.usec s.cfg b,
    ts := (h.usec s.cfg b).map (timestamp s.cfg h.sec), fsm := .dispatching }

section Stages

variable {s : State} {h : WireHeader} {b rest more : Run}

theorem awaitHeader_accepted (hcap : 12 ≤ s.cfg.fbCap) (hsrc : s.src = h.bytes ++ rest) :
    awaitHeader s.accepted = .next (s.atHeader h rest) := by
  have htaken : s.accepted.src.take 12 = h.bytes := hsrc ▸ List.take_left' h.length_bytes
  have hrest : s.accepted.src.drop 12 = rest := hsrc ▸ List.drop_left' h.length_bytes
  have hlong : 12 ≤ s.accepted.src.length := by simp [State.accepted, hsrc]
  rw [awaitHeader_ok (s := s.accepted) hcap hlong, htaken, hrest]
  rfl

theorem haveHeader_atHeader : haveHeader (s.atHeader h rest) = .next (s.headed h rest) := by
  have hread := Memory.readRun_write_self s.fb 0 h.bytes
  rw [h.length_bytes] at hread
  exact haveHeader_eq hread

theorem awaitBody_headed (hcap : 16 + (2 ^ 32 - 1) ≤ s.cfg.fbCap) (hb : b.length = h.need s.cfg) :
    awaitBody (s.headed h (b ++ more)) = .next (s.loaded h b more) := by
  have hsrc : b = (s.headed h (b ++ more)).src.take b.length := List.take_left.symm
  have hmore : (b ++ more).drop b.length = more := List.drop_left
  cases hcut : h.cut s.cfg with
  | true =>
    rw [awaitBody_of_cut (s := s.headed h (b ++ more)) hcap rfl rfl rfl hb hsrc hcut]
    simp [State.took, State.headed, State.loaded, WireHeader.usec, hcut, hmore, State.atHeader]
  | false =>
    rw [awaitBody_of_whole (s := s.headed h (b ++ more)) hcap rfl rfl rfl hb hsrc hcut]
    simp [State.took, State.headed, State.loaded, WireHeader.usec, hcut, hmore, State.atHeader]

/-- A frame that is not cut is ready for dispatch once it is loaded (41 R103, R104). -/
theorem ready_loaded (hb : b.length = h.need s.cfg) (hcut : h.cut s.cfg = false) :
    Ready (s.loaded h b more) (h.recordHdr s.cfg b) (h.body s.cfg b) := by
  have hus : h.usec s.cfg b = some (microseconds (h.et s.cfg) b) := by simp [WireHeader.usec, hcut]
  have hts : (s.loaded h b more).ts = some (h.recordHdr s.cfg b).timestamp := by
    simp [State.loaded, hus, WireHeader.recordHdr]
  obtain ⟨n, hn, hsize⟩ := exists_bodyLength hcut
  have hskip : (if h.et s.cfg then 16 else 12) = 12 + if h.et s.cfg then 4 else 0 := by split <;> rfl
  rw [← twelve_add_bodyNeed, hskip] at hsize
  have hlen : b.length = (if h.et s.cfg then 4 else 0) + n := by
    rw [hb, WireHeader.need]
    omega
  have hbody : (h.body s.cfg b).length = n := by
    rw [WireHeader.body, List.length_drop, hlen]
    omega
  refine ⟨hts, rfl, rfl, h.et s.cfg, rfl, rfl, ?_, ?_⟩
  · rw [hbody]
    exact congrArg some hn
  · have hall := Memory.readRun_write_self (s.fb.write 0 h.bytes) 12 b
    rw [hlen] at hall
    rw [hbody, hskip]
    exact (Memory.readRun_take_drop _ _ _ _ _ hall).2

/-- State `Dispatching` on the frame just loaded (41 R104). -/
theorem dispatchStep_loaded (hfocus : s.focus = .frame) (hb : b.length = h.need s.cfg) :
    dispatchStep (s.loaded h b more) =
      .next (endFrame (h.verdict s.cfg b).1 (h.verdict s.cfg b).2 (s.loaded h b more)) := by
  unfold WireHeader.verdict
  cases hcut : h.cut s.cfg with
  | true =>
    have hfetch : fetch (s.loaded h b more) = .error (.raised .truncatedInput) (s.loaded h b more) := by
      simp only [fetch, show (s.loaded h b more).focus = .frame from hfocus]
      exact fetchFrame_of_isCut ⟨rfl, rfl, rfl, rfl, rfl, rfl⟩ ((isCut_eq rfl rfl).trans hcut)
    exact dispatchStep_of_raised hfetch
  | false =>
    exact dispatchStep_of_ready hfocus (fun _ => ⟨h.et s.cfg, h.len, rfl, rfl, hcut⟩) (ready_loaded hb hcut)

end Stages

end Sys2Proof.Machine

/-! PROOFS. One whole `NEXT` from an idle block (41_frame_parser R107, R108, R110): its stream gives out at the header
or in the body, or a frame is taken and ends with its verdict. -/

namespace Sys2Proof.Machine

section Steps

variable {s : State} {h : WireHeader} {b rest more : Run}

theorem runNext_eq_accepted (hidle : Idle s) : runNext s = stepsUntilIdle 4 s.accepted := by
  obtain ⟨hbusy, hfsm, -, hcalls, -⟩ := hidle
  refine stepsUntilIdle_of_busy 4 ?_ rfl
  rw [step_eq_acceptNext hbusy (.inr ⟨hcalls, rfl⟩), ← hcalls]
  exact acceptNext_of_live hbusy (by simp [hfsm])

theorem step_accepted (hidle : Idle s) : step s.accepted = awaitHeader s.accepted := by
  obtain ⟨-, hfsm, -, hcalls, -⟩ := hidle
  exact step_eq_awaitHeader hcalls rfl hfsm

theorem step_headed (hidle : Idle s) : step (s.headed h rest) = awaitBody (s.headed h rest) := by
  obtain ⟨-, -, -, hcalls, -⟩ := hidle
  exact step_eq_awaitBody hcalls rfl rfl

/-- Two steps take a header and decode it. -/
theorem runNext_eq_headed (hidle : Idle s) (hsrc : s.src = h.bytes ++ rest) :
    runNext s = stepsUntilIdle 2 (s.headed h rest) := by
  obtain ⟨-, -, -, hcalls, -, -, hcap⟩ := id hidle
  have htake := (step_accepted hidle).trans (awaitHeader_accepted (by omega) hsrc)
  have hdecode : step (s.atHeader h rest) = .next (s.headed h rest) :=
    (step_eq_haveHeader (s := s.atHeader h rest) hcalls rfl rfl).trans haveHeader_atHeader
  rw [runNext_eq_accepted hidle, stepsUntilIdle_of_busy 3 htake rfl, stepsUntilIdle_of_busy 2 hdecode rfl]

/-- A step whose read the supplier's bytes do not fill is the last of its `NEXT`, or, with a silent supplier, the state
that the `NEXT` stays in. -/
theorem stepsUntilIdle_of_runOut {u : State} {x : Term} (k : Nat) (hstep : step u = .next (runOut x u)) :
    stepsUntilIdle (k + 1) u = .next (runOut x u) := by
  cases hend : u.srcEnd with
  | eos => exact stepsUntilIdle_of_idle k hstep (by rw [runOut_eos hend]; rfl)
  | ioerr e => exact stepsUntilIdle_of_idle k hstep (by rw [runOut_ioerr hend]; rfl)
  | silent =>
    rw [runOut_silent hend] at hstep ⊢
    exact stepsUntilIdle_of_self _ hstep

/-! ### The three courses of a NEXT -/

/-- Fewer than 12 bytes (41 R101). -/
theorem runNext_of_short (hidle : Idle s) (hshort : s.src.length < 12) :
    runNext s = .next (runOut (headerEnd s.src) s.accepted) := by
  rw [runNext_eq_accepted hidle]
  exact stepsUntilIdle_of_runOut 3 ((step_accepted hidle).trans (awaitHeader_short (s := s.accepted) hshort))

/-- A header and fewer bytes than the frame has after it (41 R103). -/
theorem runNext_of_cutBody (hidle : Idle s) (hsrc : s.src = h.bytes ++ rest) (hshort : rest.length < h.need s.cfg) :
    runNext s = .next (runOut .truncatedInput (s.headed h rest)) := by
  rw [runNext_eq_headed hidle hsrc]
  exact stepsUntilIdle_of_runOut 1 ((step_headed hidle).trans (awaitBody_short (s := s.headed h rest) rfl rfl hshort))

/-- A whole frame (41 R104). -/
theorem runNext_of_frame (hidle : Idle s) (hsrc : s.src = h.bytes ++ (b ++ more)) (hb : b.length = h.need s.cfg) :
    runNext s = .next (endFrame (h.verdict s.cfg b).1 (h.verdict s.cfg b).2 (s.loaded h b more)) := by
  obtain ⟨-, -, -, hcalls, -, hfocus, hcap⟩ := id hidle
  have hbody := (step_headed hidle).trans (awaitBody_headed (s := s) (more := more) hcap hb)
  rw [runNext_eq_headed hidle hsrc, stepsUntilIdle_of_busy 1 hbody rfl]
  refine stepsUntilIdle_of_idle 0 ?_ rfl
  exact (step_eq_dispatchStep (s := s.loaded h b more) hcalls rfl rfl).trans (dispatchStep_loaded hfocus hb)

/-- Every stream is one of the three. -/
theorem stream_cases (cfg : Cfg) (stream : Run) :
    stream.length < 12 ∨
      (∃ (h : WireHeader) (rest : Run), stream = h.bytes ++ rest ∧ rest.length < h.need cfg) ∨
      ∃ (h : WireHeader) (b more : Run), stream = h.bytes ++ (b ++ more) ∧ b.length = h.need cfg := by
  rcases Nat.lt_or_ge stream.length 12 with hlt | hge
  · exact .inl hlt
  obtain ⟨h, rest, rfl⟩ := exists_wireHeader hge
  rcases Nat.lt_or_ge rest.length (h.need cfg) with hlt | hge
  · exact .inr (.inl ⟨h, rest, rfl, hlt⟩)
  · exact .inr (.inr ⟨h, rest.take (h.need cfg), rest.drop (h.need cfg), by rw [List.take_append_drop],
      List.length_take_of_le hge⟩)

end Steps

/-! ### The function of 41 R110 -/

section Function

variable {cfg : Cfg} {h : WireHeader} {rest b more : Run} {mark : SrcEnd}

theorem next_of_short {stream : Run} (hshort : stream.length < 12) :
    Parse.next cfg stream mark = Parse.cutShort stream mark true :=
  if_pos hshort

/-- The fields that the function reads at fixed places of a stream are those of its header (30 R60). -/
theorem next_of_header (hus : cfg.lenCountsUs = false) : Parse.next cfg (h.bytes ++ rest) mark =
    if rest.length < h.need cfg then Parse.cutShort (h.bytes ++ rest) mark false
    else some ⟨(h.verdict cfg (rest.take (h.need cfg))).1, (h.verdict cfg (rest.take (h.need cfg))).2, none,
      rest.drop (h.need cfg), false⟩ := by
  have hsec : (h.bytes ++ rest).take 4 = toBe 4 h.sec.toNat := rfl
  have htyp : ((h.bytes ++ rest).drop 4).take 2 = toBe 2 h.typ.toNat := rfl
  have hsub : ((h.bytes ++ rest).drop 6).take 2 = toBe 2 h.sub.toNat := rfl
  have hlen : be (((h.bytes ++ rest).drop 8).take 4) = h.len.toNat :=
    (be_toBe 4 h.len.toNat).trans (Nat.mod_eq_of_lt h.len.isLt)
  have hsize : (if cfg.etTypes.contains h.typ then 16 else 12) + h.len.toNat = 12 + h.need cfg := by
    rw [h.need_eq hus, WireHeader.et, isEt]
    split <;> omega
  have htake : (h.bytes ++ rest).take (12 + h.need cfg) = h.bytes ++ rest.take (h.need cfg) := by
    rw [← h.length_bytes, List.take_length_add_append]
  have hdrop : (h.bytes ++ rest).drop (12 + h.need cfg) = rest.drop (h.need cfg) := by
    rw [← h.length_bytes, List.drop_length_add_append]
  have hlong : ¬ (h.bytes ++ rest).length < 12 := by simp
  have hbody : ∀ w : Run, (h.bytes ++ w).drop (if cfg.etTypes.contains h.typ then 16 else 12) = h.body cfg w := by
    intro w
    rw [WireHeader.body, WireHeader.et, isEt]
    split
    · exact List.drop_length_add_append (l₁ := h.bytes) (i := 4)
    · exact List.drop_left' h.length_bytes
  have hafter : ∀ w : Run, (h.bytes ++ w).drop 12 = w := fun w => List.drop_left' h.length_bytes
  unfold Parse.next
  rw [if_neg hlong]
  simp only [hsec, htyp, hsub, hlen, ofNat_be_toBe_word, ofNat_be_toBe_half, hsize, htake, hdrop, hbody, hafter]
  simp only [List.length_append, h.length_bytes, Nat.add_lt_add_iff_left, h.verdict_eq hus]
  cases dispatchClass cfg h.typ h.sub <;> rfl

theorem next_of_cutBody (hus : cfg.lenCountsUs = false) (hshort : rest.length < h.need cfg) :
    Parse.next cfg (h.bytes ++ rest) mark = Parse.cutShort (h.bytes ++ rest) mark false := by
  rw [next_of_header hus, if_pos hshort]

theorem next_of_frame (hus : cfg.lenCountsUs = false) (hb : b.length = h.need cfg) :
    Parse.next cfg (h.bytes ++ (b ++ more)) mark =
      some ⟨(h.verdict cfg b).1, (h.verdict cfg b).2, none, more, false⟩ := by
  rw [next_of_header hus, if_neg (by simp [hb]), List.take_left' hb, List.drop_left' hb]

end Function

end Sys2Proof.Machine

/-! PROOFS. What a whole `NEXT` delivers, from its three courses: the result of the function of 41_frame_parser R110,
the bytes taken (R107), and the results of a stream of whole frames (R108). -/

namespace Sys2Proof.Machine

/-! ### The function -/

/-- The state after a `NEXT` shows what the function gives; without a result the `NEXT` is not over (41 R110). -/
def Agrees (s t : State) : Option Parse.Result → Prop
  | some r => t.busy = false ∧ t.res = some r.kind ∧ t.record = r.record ∧ t.src = r.left ∧
      (t.fsm = .done ↔ r.finished = true) ∧ (r.finished = false → t.fsm = .awaitingHeader) ∧
      t.iocode = (r.iocode.orElse fun _ => s.iocode) ∧ t.srcEnd = s.srcEnd
  | none => t.busy = true

/-- A stream that gives out, in the registers and in the function. -/
theorem runOut_agrees {s u : State} {x : Term} {stream : Run} {atBoundary : Bool} (hend : u.srcEnd = s.srcEnd)
    (hcode : u.iocode = s.iocode) (hbusy : u.busy = true)
    (hx : x.replay = if atBoundary && stream.isEmpty then .endOfStream else .truncatedInput) :
    Agrees s (runOut x u) (Parse.cutShort stream s.srcEnd atBoundary) := by
  cases hmark : s.srcEnd with
  | eos =>
    rw [runOut_eos (hend.trans hmark)]
    exact ⟨rfl, congrArg some hx, rfl, rfl, iff_of_true rfl rfl, nofun, hcode, hend⟩
  | ioerr e =>
    rw [runOut_ioerr (hend.trans hmark)]
    exact ⟨rfl, rfl, rfl, rfl, iff_of_true rfl rfl, nofun, rfl, hend⟩
  | silent =>
    rw [runOut_silent (hend.trans hmark)]
    exact hbusy

theorem headerEnd_replay (src : Run) :
    (headerEnd src).replay = if true && src.isEmpty then .endOfStream else .truncatedInput := by
  cases src <;> rfl

/-- Settles O25, by the course that the stream gives the `NEXT`. -/
theorem nextIsTheFunction : Obligations.NextIsTheFunction := by
  intro s hidle hus
  suffices h : ∃ t, runNext s = .next t ∧ Agrees s t (Parse.next s.cfg s.src s.srcEnd) by
    obtain ⟨t, ht, hagrees⟩ := h
    refine ⟨t, ht, ?_⟩
    cases hr : Parse.next s.cfg s.src s.srcEnd <;> rw [hr] at hagrees <;> exact hagrees
  rcases stream_cases s.cfg s.src with hshort | ⟨h, rest, hsrc, hcut⟩ | ⟨h, b, more, hsrc, hb⟩
  · refine ⟨_, runNext_of_short hidle hshort, ?_⟩
    rw [next_of_short hshort]
    exact runOut_agrees rfl rfl rfl (headerEnd_replay s.src)
  · refine ⟨_, runNext_of_cutBody hidle hsrc hcut, ?_⟩
    rw [hsrc, next_of_cutBody hus hcut]
    exact runOut_agrees rfl rfl rfl rfl
  · refine ⟨_, runNext_of_frame hidle hsrc hb, ?_⟩
    rw [hsrc, next_of_frame hus hb]
    exact ⟨rfl, rfl, rfl, rfl, iff_of_false nofun nofun, fun _ => rfl, rfl, rfl⟩

/-! ### The bytes taken -/

/-- A `NEXT` that is over because its stream gave out has ended the stream. -/
theorem runOut_eq_endStream {x : Term} {u : State} (hx : x ≠ .live) (hbusy : u.busy = true)
    (hover : (runOut x u).busy = false) : ∃ y code, y ≠ .live ∧ runOut x u = endStream y code u.drained := by
  cases hend : u.srcEnd with
  | eos => exact ⟨x, none, hx, runOut_eos hend⟩
  | ioerr e => exact ⟨.underlyingIOError, some e, nofun, runOut_ioerr hend⟩
  | silent =>
    rw [runOut_silent hend, hbusy] at hover
    cases hover

theorem headerEnd_ne_live (src : Run) : headerEnd src ≠ .live := by
  cases src <;> nofun

/-- The bytes a frame occupies, by its header registers (30 R62). -/
theorem WireHeader.size_eq (cfg : Cfg) (h : WireHeader) : 12 + h.need cfg =
    (if h.et cfg && cfg.lenCountsUs then 12 else if h.et cfg then 16 else 12) + h.len.toNat := by
  rw [WireHeader.need, twelve_add_bodyNeed, frameLen, countsUs, Bool.and_comm, headerLen]
  split <;> rfl

/-- Two counts of bytes in `SPOS` are the count of both. -/
theorem spos_add_add (p : Dword) (n k : Nat) :
    p + BitVec.ofNat 64 n + BitVec.ofNat 64 k = p + BitVec.ofNat 64 (n + k) := by
  rw [BitVec.add_assoc, BitVec.ofNat_add]

/-- Settles O26, by the course that the stream gives the `NEXT`: what is taken is counted, and it is the whole frame or
the whole stream. -/
theorem frameIsDrained : Obligations.FrameIsDrained := by
  intro s t hidle ht hover
  obtain ⟨-, -, hlive, -⟩ := id hidle
  rcases stream_cases s.cfg s.src with hshort | ⟨h, rest, hsrc, hcut⟩ | ⟨h, b, more, hsrc, hb⟩
  · rw [runNext_of_short hidle hshort] at ht
    cases ht
    obtain ⟨y, code, hy, heq⟩ := runOut_eq_endStream (headerEnd_ne_live _) rfl hover
    rw [heq]
    exact ⟨fun h => absurd h hy, fun _ => ⟨rfl, rfl, rfl, .inl hshort⟩⟩
  · rw [runNext_of_cutBody hidle hsrc hcut] at ht
    cases ht
    obtain ⟨y, code, hy, heq⟩ := runOut_eq_endStream (x := .truncatedInput) nofun rfl hover
    have hlen : s.src.length = 12 + rest.length := by simp [hsrc]
    have hsize := h.size_eq s.cfg
    rw [heq]
    refine ⟨fun h => absurd h hy, fun _ => ⟨rfl, ?_, rfl, .inr ⟨h.et s.cfg, _, h.len, rfl, rfl, rfl, rfl, ?_, ?_⟩⟩⟩
    · rw [hlen, ← spos_add_add]
      rfl
    · omega
    · rw [headerLen, ← hsize]
      omega
  · rw [runNext_of_frame hidle hsrc hb] at ht
    cases ht
    have hlen : s.src.length = 12 + (b.length + more.length) := by simp [hsrc]
    have hdrop : s.src.drop (12 + b.length) = more := by
      rw [hsrc, ← h.length_bytes, List.drop_length_add_append, List.drop_left]
    refine ⟨fun _ => ⟨h.et s.cfg, _, h.len, 12 + b.length, rfl, rfl, rfl, rfl, ?_, ?_, hdrop.symm, rfl, ?_, rfl, _, rfl,
      h.verdict_perFrame _ b⟩, fun hne => absurd hlive hne⟩
    · rw [hb, headerLen]
      exact h.size_eq s.cfg
    · omega
    · exact spos_add_add s.spos 12 b.length

/-! ### A stream of whole frames -/

namespace WireFrame

/-- Its common header (30 R60). -/
def header (f : WireFrame) : WireHeader :=
  ⟨f.sec, f.typ, f.sub, f.len⟩

/-- The frame's bytes after the first 12 (30 R61). -/
def tail (cfg : Cfg) (f : WireFrame) : Run :=
  (if cfg.etTypes.contains f.typ then toBe 4 f.usec.toNat else []) ++ f.body

theorem bytes_eq (cfg : Cfg) (f : WireFrame) : f.bytes cfg = f.header.bytes ++ f.tail cfg := by
  unfold WireFrame.bytes tail
  split
  · exact List.append_assoc _ _ _
  · rfl

theorem length_tail {cfg : Cfg} {f : WireFrame} (hus : cfg.lenCountsUs = false) (hlen : f.body.length < 2 ^ 32) :
    (f.tail cfg).length = f.header.need cfg := by
  have hl : f.header.len.toNat = f.body.length := Nat.mod_eq_of_lt hlen
  rw [f.header.need_eq hus, hl, tail, List.length_append, WireHeader.et, isEt, header]
  split <;> simp

theorem microseconds_tail (cfg : Cfg) (f : WireFrame) :
    microseconds (f.header.et cfg) (f.tail cfg) = if cfg.etTypes.contains f.typ then f.usec else 0 := by
  have het : f.header.et cfg = cfg.etTypes.contains f.typ := rfl
  rw [microseconds, het, tail]
  split
  · rw [List.take_left' (toBe_length _ _), ofNat_be_toBe_word]
  · rfl

end WireFrame

/-- The block after a frame is as idle as before it (41 R104). -/
theorem idle_endFrame {s : State} (hidle : Idle s) (k : ResKind) (r : Option Record) (h : WireHeader) (b more : Run) :
    Idle (endFrame k r (s.loaded h b more)) := by
  obtain ⟨-, -, hlive, hcalls, -, -, hcap⟩ := hidle
  exact ⟨rfl, rfl, hlive, hcalls, rfl, rfl, hcap⟩

/-- Settles O27, by induction on the frames: the first `NEXT` takes the first frame, and the others find an idle block
at the rest of the stream. -/
theorem framesGiveResultsInOrder : Obligations.FramesGiveResultsInOrder := by
  intro s frames
  induction frames generalizing s with
  | nil =>
    intro hidle _ hend _ hsrc
    have hrun := runNext_of_short hidle (by simp [hsrc])
    have hnil : headerEnd s.src = .endOfStream := by rw [hsrc]; rfl
    rw [runOut_eos (s := s.accepted) hend, hnil] at hrun
    exact ⟨nofun, _, runNexts_of_runNext 0 hrun, rfl, rfl, rfl, rfl⟩
  | cons f frames ih =>
    intro hidle hus hend hbodies hsrc
    obtain ⟨hbody, hbodies⟩ := List.forall_mem_cons.mp hbodies
    have hneed := f.length_tail hus hbody
    rw [List.flatMap_cons, f.bytes_eq, List.append_assoc] at hsrc
    have hrun := runNext_of_frame hidle hsrc hneed
    have hnext := idle_endFrame hidle (f.header.verdict s.cfg (f.tail s.cfg)).1
      (f.header.verdict s.cfg (f.tail s.cfg)).2 f.header (f.tail s.cfg) (frames.flatMap (WireFrame.bytes s.cfg))
    obtain ⟨hith, t, ht, hlast⟩ := ih _ hnext hus hend hbodies rfl
    refine ⟨fun i g hg => ?_, t, (runNexts_of_runNext _ hrun).trans ht, hlast⟩
    cases i with
    | succ i =>
      obtain ⟨t, r, ht, hdelivered⟩ := hith i g hg
      exact ⟨t, r, (runNexts_of_runNext _ hrun).trans ht, hdelivered⟩
    | zero =>
      cases hg
      have halone := next_of_frame (more := []) (mark := .eos) hus hneed
      rw [List.append_nil, ← f.bytes_eq] at halone
      obtain ⟨-, -, hlive, -⟩ := hidle
      have husec : f.header.usec s.cfg (f.tail s.cfg) = some (if s.cfg.etTypes.contains f.typ then f.usec else 0) := by
        rw [WireHeader.usec, f.header.cut_eq_false hus, f.microseconds_tail]
        rfl
      refine ⟨_, _, runNexts_of_runNext 0 hrun, rfl, hlive, rfl, rfl, rfl, rfl, rfl, rfl, husec, ?_, halone,
        f.header.verdict_perFrame _ _, rfl, rfl⟩
      show ((f.header.usec s.cfg (f.tail s.cfg)).map (timestamp s.cfg f.sec)).map BitVec.toNat = _
      rw [husec, Option.map_some, Option.map_some, timestamp_toNat]
      cases s.cfg.honourUs <;> cases s.cfg.etTypes.contains f.typ <;> rfl

end Sys2Proof.Machine

/-! PROOFS. The AS decoder (42_as_decoder R120): one equation for each width, in which the reading widths are integer forms
of the cursor and inherit their laws. -/

namespace Sys2Proof.Machine

section AsDecoder

variable {w n c : Nat} {s : State}

/-! ### The integer forms at the cursor -/

theorem AtCursor.extract_number {v : BitVec w} (hw : 2 ^ w = 256 ^ n) (h : AtCursor s c (toBe n v.toNat)) :
    (do let b ← extract n; pure (BitVec.ofNat w (be b)) : Op (BitVec w)) s = .ok v { s with cur := some (c + n) } := by
  obtain ⟨hc, hb, l, hl, hn⟩ := h
  rw [toBe_length] at hb hn
  exact extract_number_ok hw hc hl hn hb

theorem AtCursor.u16_eq {v : Half} (h : AtCursor s c (toBe 2 v.toNat)) :
    u16 s = .ok v { s with cur := some (c + 2) } :=
  h.extract_number (by norm_num)

theorem AtCursor.u32_eq {v : Word} (h : AtCursor s c (toBe 4 v.toNat)) :
    u32 s = .ok v { s with cur := some (c + 4) } :=
  h.extract_number (by norm_num)

/-! ### `AS(w)` by its width -/

theorem asNumber_two : asNumber 2 = (do let v ← u16; pure (.as2 v)) := rfl

theorem asNumber_four : asNumber 4 = (do let v ← u32; pure (.as4 v)) := rfl

theorem asNumber_zero : asNumber 0 = pure .absent := rfl

theorem asNumber_of_bad_width (h0 : w ≠ 0) (h2 : w ≠ 2) (h4 : w ≠ 4) : asNumber w = raise .malformedRecord := by
  rw [asNumber, if_neg h2, if_neg h4, if_neg h0]

end AsDecoder

/-- Settles O57, by the width: 2 and 4 end as their integer form ends, and the others look at no byte. -/
theorem asWidthComesFromTheCaller : Obligations.AsWidthComesFromTheCaller := by
  intro s c
  refine ⟨fun v h => ⟨?two, rfl⟩, fun v h => ⟨?four, rfl⟩, ?zero, fun w h0 h2 h4 => ?bad, ?cut⟩
  case two =>
    rw [asNumber_two, Op.bind_ok h.u16_eq, Op.pure_apply]
  case four =>
    rw [asNumber_four, Op.bind_ok h.u32_eq, Op.pure_apply]
  case zero =>
    rw [asNumber_zero, Op.pure_apply]
  case bad =>
    rw [asNumber_of_bad_width h0 h2 h4, raise_apply]
  case cut =>
    rintro w l (rfl | rfl) hc hl hn
    · rw [asNumber_two]
      exact Op.bind_error (extract_number_truncated hc hl hn)
    · rw [asNumber_four]
      exact Op.bind_error (extract_number_truncated hc hl hn)

end Sys2Proof.Machine

/-! PROOFS. The NLRI decoder (43_nlri_prefix R125 to R127): the address it makes of the bytes read, bit by bit; the two courses
of the decode after the length byte; and the unit at the cursor. -/

namespace Sys2Proof.Machine

/-! ### Runs, bit by bit -/

/-- A run has no bit past its last byte. -/
theorem bitAt_of_length_le {a : Run} {i : Nat} (h : 8 * a.length ≤ i) : bitAt a i = false := by
  rw [bitAt, List.getD_eq_default _ _ (by omega)]
  exact BitVec.getLsbD_zero

theorem run_ext_bitAt {a b : Run} (hlen : a.length = b.length) (h : ∀ i < 8 * a.length, bitAt a i = bitAt b i) :
    a = b := by
  refine List.ext_getElem hlen fun j ha hb => BitVec.eq_of_getLsbD_eq fun k hk => ?_
  rw [← bitAt_eq_getLsbD ha hk, ← bitAt_eq_getLsbD hb hk]
  exact h _ (by omega)

/-- Zero bytes after a run add no bit to it (43 R125). -/
theorem bitAt_append_zeros (a : Run) (n i : Nat) : bitAt (a ++ zeros n) i = bitAt a i := by
  unfold bitAt
  congr 1
  by_cases h : i / 8 < a.length
  · rw [List.getD_append _ _ _ _ h]
  · rw [List.getD_append_right _ _ _ _ (by omega), List.getD_eq_default a _ (by omega)]
    rw [zeros, List.getD_eq_getElem?_getD, List.getElem?_getD_replicate_default_eq]

theorem getD_maskAt (i : Nat) (m : Byte) (a : Run) (j : Nat) :
    (maskAt i m a).getD j 0 = if j = i then a.getD j 0 &&& m else a.getD j 0 := by
  induction a generalizing i j with
  | nil => simp [maskAt]
  | cons b bs ih =>
    cases i with
    | zero => cases j <;> simp [maskAt]
    | succ i =>
      cases j with
      | zero => simp [maskAt]
      | succ j => simpa [maskAt] using ih i j

@[simp] theorem maskTail_length (bits n : Nat) (a : Run) : (maskTail bits n a).length = a.length := by
  unfold maskTail
  split <;> simp

/-- The tail mask clears the bits from `bits` to the end of the byte that holds the last one kept, and no other (43 R126). -/
theorem bitAt_maskTail (bits : Nat) (a : Run) (i : Nat) :
    bitAt (maskTail bits (ceil8 bits) a) i = (decide (i < bits ∨ 8 * ceil8 bits ≤ i) && bitAt a i) := by
  unfold maskTail
  split
  · next hr =>
    have hkept : i < bits ∨ 8 * ceil8 bits ≤ i := by unfold ceil8; omega
    simp [hkept]
  · next hr =>
    rw [bitAt, getD_maskAt]
    split
    · next hlast =>
      rw [BitVec.getLsbD_and, getLsbD_headMask _ (by omega), Bool.and_comm]
      refine congrArg (· && bitAt a i) (decide_eq_decide.mpr ?_)
      unfold ceil8 at hlast ⊢
      omega
    · next hother =>
      have hkept : i < bits ∨ 8 * ceil8 bits ≤ i := by unfold ceil8 at hother ⊢; omega
      simp [hkept, bitAt]

/-! ### The address of a decoded Prefix -/

/-- The address that NLRI makes of the bytes `b`: padded to the width, and masked if asked (43 R125, R126). -/
def nlriAddr (mask : Bool) (l : Byte) (afw : Nat) (b : Run) : Run :=
  let padded := b ++ zeros (afw - ceil8 l.toNat)
  if mask then maskTail l.toNat (ceil8 l.toNat) padded else padded

theorem nlriAddr_unmasked (l : Byte) (afw : Nat) (b : Run) :
    nlriAddr false l afw b = b ++ zeros (afw - ceil8 l.toNat) := rfl

section Address

variable {l : Byte} {afw : Nat} {b : Run}

theorem nlriAddr_length (mask : Bool) (hl : l.toNat ≤ 8 * afw) (hb : b.length = ceil8 l.toNat) :
    (nlriAddr mask l afw b).length = afw := by
  have hceil := ceil8_le _ _ hl
  cases mask <;> simp [nlriAddr, hb, hceil]

/-- The masked address has the first `L` bits of the bytes read and no other (43 R126). -/
theorem bitAt_nlriAddr_masked (hb : b.length = ceil8 l.toNat) (i : Nat) :
    bitAt (nlriAddr true l afw b) i = (decide (i < l.toNat) && bitAt b i) := by
  rw [nlriAddr, if_pos rfl, bitAt_maskTail, bitAt_append_zeros]
  by_cases hpast : 8 * ceil8 l.toNat ≤ i
  · simp [bitAt_of_length_le (a := b) (i := i) (by omega)]
  · simp [hpast]

/-- The masked address is clean, whatever the stray bits of its last byte (10_state R24). -/
theorem nlriAddr_masked_fits (hl : l.toNat ≤ 8 * afw) (hb : b.length = ceil8 l.toNat) :
    Prefix.fits afw ⟨nlriAddr true l afw b, l⟩ := by
  refine ⟨nlriAddr_length true hl hb, hl, fun i _ hi => ?_⟩
  simp [bitAt_nlriAddr_masked hb, Nat.not_lt.mpr hi]

/-- The one clean address that has the first `L` bits of the bytes read. -/
theorem nlriAddr_masked_eq {addr : Run} (hb : b.length = ceil8 l.toNat) (hfits : Prefix.fits afw ⟨addr, l⟩)
    (hbits : ∀ k < l.toNat, bitAt b k = bitAt addr k) : nlriAddr true l afw b = addr := by
  obtain ⟨hlen, hl, hclean⟩ := hfits
  have hlength := nlriAddr_length true hl hb
  refine run_ext_bitAt (hlength.trans hlen.symm) fun i hi => ?_
  rw [bitAt_nlriAddr_masked hb]
  by_cases hin : i < l.toNat
  · simp [hin, hbits i hin]
  · simp [hin, hclean i (by rwa [hlen, ← hlength]) (Nat.not_lt.mp hin)]

end Address

/-! ### An operation that answers -/

/-- A sequence answers only when both its operations do. -/
theorem Op.exists_of_bind_ok {α β : Type} {x : Op α} {f : α → Op β} {s t : State} {b : β} (h : (x >>= f) s = .ok b t) :
    ∃ a u, x s = .ok a u ∧ f a u = .ok b t := by
  rw [Op.bind_apply] at h
  cases hx : x s with
  | ok a u => exact ⟨a, u, rfl, by rwa [hx] at h⟩
  | error e u => rw [hx] at h; cases h

/-- An extraction that answers gives the bytes asked for and moves the cursor past them (40 R90). -/
theorem extract_eq_ok {n : Nat} {s t : State} {b : Run} (h : extract n s = .ok b t) :
    ∃ c, s.cur = some c ∧ b.length = n ∧ t = { s with cur := some (c + n) } := by
  rcases extract_cases n s with ⟨c, l, b', hc, -, -, hb, hx⟩ | ⟨c, l, -, -, -, hx⟩ | ⟨-, f, hx⟩
  · rw [hx] at h
    cases h
    exact ⟨c, hc, Memory.readRun_length _ _ _ _ hb, rfl⟩
  all_goals rw [hx] at h; cases h

/-! ### The decode after the length byte -/

section Decode

variable {l : Byte} {afw : Nat} {s : State}

theorem nlriAfter_of_illegal (h : 8 * afw < l.toNat) : nlriAfter l afw s = .error (.raised .malformedRecord) s := by
  rw [nlriAfter, Op.bind_ok (askCfg_apply _ _), if_pos h, raise_apply]

theorem nlriAfter_of_legal (h : l.toNat ≤ 8 * afw) : nlriAfter l afw s =
    (do let b ← bytes (ceil8 l.toNat); pure ⟨nlriAddr s.cfg.nlriMaskTail l afw b, l⟩ : Op Prefix) s := by
  rw [nlriAfter, Op.bind_ok (askCfg_apply _ _), if_neg (Nat.not_lt.mpr h)]
  rfl

theorem nlriAfter_ok {t : State} {b : Run} (h : l.toNat ≤ 8 * afw) (hread : bytes (ceil8 l.toNat) s = .ok b t) :
    nlriAfter l afw s = .ok ⟨nlriAddr s.cfg.nlriMaskTail l afw b, l⟩ t := by
  rw [nlriAfter_of_legal h, Op.bind_ok hread, Op.pure_apply]

end Decode

/-- What the decode after the length byte needs in order to answer, and what it then gives (43 R125). -/
theorem nlriAfter_eq_ok {l : Byte} {afw : Nat} {s t : State} {p : Prefix} (h : nlriAfter l afw s = .ok p t) :
    l.toNat ≤ 8 * afw ∧ ∃ c b, s.cur = some c ∧ b.length = ceil8 l.toNat ∧
      p = ⟨nlriAddr s.cfg.nlriMaskTail l afw b, l⟩ ∧ t = { s with cur := some (c + ceil8 l.toNat) } := by
  by_cases hl : 8 * afw < l.toNat
  · rw [nlriAfter_of_illegal hl] at h
    cases h
  · have hlegal := Nat.not_lt.mp hl
    rw [nlriAfter_of_legal hlegal] at h
    obtain ⟨b, u, hread, hpure⟩ := Op.exists_of_bind_ok h
    obtain ⟨c, hc, hb, rfl⟩ := extract_eq_ok hread
    cases hpure
    exact ⟨hlegal, c, b, hc, hb, rfl, rfl⟩

/-- Settles O55: the length byte is one extraction and the address bytes are the other, and the masked address is clean. -/
theorem prefixIsAlwaysClean : Obligations.PrefixIsAlwaysClean := by
  intro s t afw p hmask h
  obtain ⟨l, u, hlength, hafter⟩ := Op.exists_of_bind_ok h
  obtain ⟨x, v, hread, hpure⟩ := Op.exists_of_bind_ok hlength
  obtain ⟨c, hc, -, rfl⟩ := extract_eq_ok hread
  cases hpure
  obtain ⟨hl, c', b, hc', hb, rfl, rfl⟩ := nlriAfter_eq_ok hafter
  cases hc'
  refine ⟨?fits, ?cursor, rfl⟩
  case fits =>
    rw [hmask]
    exact nlriAddr_masked_fits hl hb
  case cursor =>
    simp [hc, Nat.add_assoc]

/-! ### The unit at the cursor -/

section NlriUnit

variable {c afw : Nat} {l : Byte} {s t : State}

theorem LeftAtCursor.atCursor {left : Run} (h : LeftAtCursor s c left) : AtCursor s c left := by
  obtain ⟨hc, hl, hb⟩ := h
  exact ⟨hc, hb, _, hl, Nat.le_refl _⟩

/-- The bytes at the cursor are taken one part after the other (40 R90). -/
theorem AtCursor.extract_append {a b : Run} (h : AtCursor s c (a ++ b)) :
    extract a.length s = .ok a { s with cur := some (c + a.length) } ∧
      AtCursor { s with cur := some (c + a.length) } (c + a.length) b := by
  obtain ⟨hc, hrun, n, hl, hn⟩ := h
  rw [List.length_append] at hn
  obtain ⟨ha, hb⟩ := Memory.readRun_append hrun
  exact ⟨extract_ok hc hl (by omega) ha, rfl, hb, n, hl, by omega⟩

theorem exec_nlri (l : Byte) (s : State) : exec (.nlri l) s = execNlri l s := rfl

/-- NLRI past its length byte, at the width that `AFW` holds (43 R125). -/
theorem exec_nlri_of_length {x : Run} (hread : extract 1 s = .ok x t) (hafw : t.afw = some afw) :
    exec (.nlri l) s = runUnit (do let p ← nlriAfter l afw; pure (.pfx p)) t := by
  rw [exec_nlri, execNlri, runUnit, Op.bind_ok hread, Op.bind_ok (readReq_some hafw), runUnit]

/-- NLRI on a legal length with its bytes at the cursor, under either setting of `NLRI_MASK_TAIL`. -/
theorem exec_nlri_of_legal {tail : Run} (hafw : s.afw = some afw) (hl : l.toNat ≤ 8 * afw)
    (hlen : tail.length = ceil8 l.toNat) (h : AtCursor s c (l :: tail)) :
    exec (.nlri l) s = .next { s with
      cur := some (c + (1 + ceil8 l.toNat)),
      built := s.built ++ [.pfx ⟨nlriAddr s.cfg.nlriMaskTail l afw tail, l⟩] } := by
  obtain ⟨hlength, hat⟩ := AtCursor.extract_append (a := [l]) h
  rw [← List.append_nil tail] at hat
  obtain ⟨htail, -⟩ := hat.extract_append
  rw [hlen] at htail
  have hafter := nlriAfter_ok hl htail
  rw [exec_nlri_of_length hlength hafw, runUnit_ok ((Op.bind_ok hafter).trans (Op.pure_apply _ _)),
    List.length_singleton, Nat.add_assoc]

end NlriUnit

/-- Settles O53: the two settings of `NLRI_MASK_TAIL` differ in the address alone, and the masked one is the clean address with
the bits read. -/
theorem prefixIsTaken : Obligations.PrefixIsTaken := by
  intro s c afw l tail hafw hl hlen hat
  rw [exec_nlri_of_legal hafw hl hlen hat]
  refine ⟨fun hmask addr hfits hbits => ?masked, fun hmask => ?unmasked⟩
  case masked => rw [hmask, nlriAddr_masked_eq hlen hfits hbits]
  case unmasked => rw [hmask, nlriAddr_unmasked]

/-- Settles O54: the extraction of the length, the range check and the extraction of the address bytes, each where it fails; an
abort leaves nothing of the cursor, so it does not matter how far it had come. -/
theorem badPrefixEndsTheFrame : Obligations.BadPrefixEndsTheFrame := by
  intro s c l
  refine ⟨fun hempty => ?empty, fun afw left hafw hleft => ?length⟩
  case empty =>
    obtain ⟨hc, hlim, -⟩ := hempty
    rw [exec_nlri, execNlri]
    exact runUnit_raised (Op.bind_error (extract_truncated hc hlim (Nat.lt_succ_self c)))
  case length =>
    obtain ⟨hlength, -⟩ := AtCursor.extract_append (a := [l]) hleft.atCursor
    rw [exec_nlri_of_length hlength hafw]
    refine ⟨fun hbad => ?illegal, fun hl hshort => ?short⟩
    case illegal =>
      exact runUnit_raised (Op.bind_error (nlriAfter_of_illegal hbad))
    case short =>
      obtain ⟨-, hlim, -⟩ := hleft
      have hpast : c + (l :: left).length < c + [l].length + ceil8 l.toNat := by
        simp only [List.length_cons, List.length_nil]
        omega
      have htail := extract_truncated (s := { s with cur := some (c + [l].length) }) rfl hlim hpast
      exact runUnit_raised (Op.bind_error ((nlriAfter_of_legal hl).trans (Op.bind_error htail)))

end Sys2Proof.Machine

/-! PROOFS. The path-attribute iterator (44_attr_iterator R130 to R132): what an answer of each of its operations needs and
leaves behind, from which the bound of R132 follows for every state; and the two attribute forms at a window. -/

namespace Sys2Proof.Machine

/-! ### An operation that answers -/

/-- A sequence that opens with a register read answers only when the register holds a value. -/
theorem exists_of_readReq_bind_ok {α β : Type} {r : RegName} {get : State → Option α} {f : α → Op β} {s t : State} {b : β}
    (h : (readReq r get >>= f) s = .ok b t) : ∃ v, get s = some v ∧ f v s = .ok b t := by
  cases hg : get s with
  | none => rw [Op.bind_error (readReq_none hg)] at h; cases h
  | some v => exact ⟨v, rfl, by rwa [Op.bind_ok (readReq_some hg)] at h⟩

theorem exists_of_memRead_bind_ok {β : Type} {a n : Nat} {f : Run → Op β} {s t : State} {b : β}
    (h : (memRead a n >>= f) s = .ok b t) : ∃ x, f x s = .ok b t := by
  obtain ⟨x, -, hx⟩ | ⟨-, _, hx⟩ := memRead_cases a n s
  · exact ⟨x, by rwa [Op.bind_ok hx] at h⟩
  · rw [Op.bind_error hx] at h; cases h

/-! ### The header of an attribute -/

theorem three_le_attrHeaderLen (ext : Bool) : 3 ≤ attrHeaderLen ext := by
  cases ext <;> decide

theorem attrHeaderLen_sub_two (ext : Bool) : attrHeaderLen ext - 2 = if ext then 2 else 1 := by
  cases ext <;> rfl

/-- The length field of either form holds a length that fits it (30 R70). -/
theorem be_lengthField {ext : Bool} {n : Half} (hshort : ext = false → n.toNat < 256) :
    be (toBe (attrHeaderLen ext - 2) n.toNat) = n.toNat := by
  rw [be_toBe]
  cases ext with
  | false => exact Nat.mod_eq_of_lt (hshort rfl)
  | true => exact Nat.mod_eq_of_lt n.isLt

/-! ### The walk of a window -/

section Walk

variable {s t : State}

/-- An attribute that is taken consumes its header at least, and no more than the window has left (44 R131, R132). -/
theorem attrForm_eq_ok {flags : Byte} {ext : Bool} {a : Attr} (h : attrForm flags ext s = .ok a t) :
    ∃ c l n, s.atCur = some c ∧ s.atLim = some l ∧ 3 ≤ n ∧ n ≤ l - c ∧ t = { s with atCur := some (c + n) } := by
  obtain ⟨c, hc, h⟩ := exists_of_readReq_bind_ok h
  obtain ⟨l, hl, h⟩ := exists_of_readReq_bind_ok h
  obtain ⟨asw, -, h⟩ := exists_of_readReq_bind_ok h
  have hheader := three_le_attrHeaderLen ext
  simp only at h
  split at h
  case isTrue => cases h
  case isFalse =>
    obtain ⟨ty, h⟩ := exists_of_memRead_bind_ok h
    obtain ⟨ab, h⟩ := exists_of_memRead_bind_ok h
    split at h
    case isTrue => cases h
    case isFalse hfits =>
      obtain ⟨value, h⟩ := exists_of_memRead_bind_ok h
      cases h
      exact ⟨c, l, attrHeaderLen ext + be ab, hc, hl, by omega, by omega, by rw [Nat.add_assoc]⟩

/-- `ATTR.NEXT` answers at the end of the window, where nothing changes, or by taking an attribute (44 R131). -/
theorem attrNext_eq_ok {r : Option Attr} (h : attrNext s = .ok r t) :
    ∃ c l, s.atCur = some c ∧ s.atLim = some l ∧
      (r = none ∧ l - c = 0 ∧ t = s ∨
        ∃ a n, r = some a ∧ 3 ≤ n ∧ n ≤ l - c ∧ t = { s with atCur := some (c + n) }) := by
  obtain ⟨c, hc, h⟩ := exists_of_readReq_bind_ok h
  obtain ⟨l, hl, h⟩ := exists_of_readReq_bind_ok h
  refine ⟨c, l, hc, hl, ?_⟩
  split at h
  case isTrue hend =>
    cases h
    exact .inl ⟨rfl, hend, rfl⟩
  case isFalse =>
    split at h
    case isTrue => cases h
    case isFalse =>
      obtain ⟨fb, h⟩ := exists_of_memRead_bind_ok h
      rw [Op.bind_ok (askCfg_apply _ s)] at h
      obtain ⟨a, u, hform, h⟩ := Op.exists_of_bind_ok h
      obtain ⟨c', l', n, hc', hl', hn, hle, rfl⟩ := attrForm_eq_ok hform
      cases hc.symm.trans hc'
      cases hl.symm.trans hl'
      cases h
      exact .inr ⟨a, n, rfl, hn, hle, rfl⟩

/-- The loop of `ATTRS` answers with the iterator at the end of the window, having taken at least three bytes for every Attr
in the list (44 R130, R132). -/
theorem attrLoop_eq_ok {k c l : Nat} {as : List Attr} (h : attrLoop k s = .ok as t) (hc : s.atCur = some c)
    (hl : s.atLim = some l) (hle : c ≤ l) : 3 * as.length ≤ l - c ∧ t = { s with atCur := some l } := by
  induction k generalizing s c as with
  | zero => cases h
  | succ k ih =>
    obtain ⟨r, u, hnext, hafter⟩ := Op.exists_of_bind_ok h
    obtain ⟨c', l', hc', hl', hcases⟩ := attrNext_eq_ok hnext
    cases hc.symm.trans hc'
    cases hl.symm.trans hl'
    obtain ⟨rfl, hend, rfl⟩ | ⟨a, n, rfl, hn, hroom, rfl⟩ := hcases
    · cases hafter
      obtain rfl : l = c := by omega
      exact ⟨Nat.zero_le _, by rw [← hc]⟩
    · obtain ⟨as', v, hloop, hcons⟩ := Op.exists_of_bind_ok hafter
      cases hcons
      obtain ⟨hlen, rfl⟩ := ih hloop rfl hl (by omega)
      exact ⟨by rw [List.length_cons]; omega, rfl⟩

/-- `ATTRS(n, asw)` answers with both cursors at the end of the window (44 R130) and within the bound of 44 R132. -/
theorem attrs_eq_ok {n asw : Nat} {as : List Attr} (h : attrs n asw s = .ok as t) :
    ∃ c, s.cur = some c ∧ 3 * as.length ≤ n ∧
      t = { s with cur := some (c + n), atCur := some (c + n), atLim := some (c + n), atAsw := some asw } := by
  obtain ⟨c, hc, h⟩ := exists_of_readReq_bind_ok h
  obtain ⟨b, u, hbytes, hwindow⟩ := Op.exists_of_bind_ok h
  obtain ⟨c', hc', -, rfl⟩ := extract_eq_ok hbytes
  cases hc.symm.trans hc'
  rw [Op.bind_ok (update_apply _ _)] at hwindow
  obtain ⟨hlen, rfl⟩ := attrLoop_eq_ok hwindow rfl rfl (Nat.le_add_right c n)
  exact ⟨c, hc, by omega, rfl⟩

end Walk

/-- Settles O51: the parser of 41 R110 reads the wire form back and `ATTRS` follows it; where the registers then stand is said
of every answer of `ATTRS`. -/
theorem windowGivesItsAttributes : Obligations.WindowGivesItsAttributes := by
  intro s c asw as more hfits hleft
  have hfollows := follows_attrs asw (as.flatMap (Attr.wire s.cfg)).length ⟨c, hleft⟩
  rw [Follows, reads_attrs hfits rfl more] at hfollows
  obtain ⟨t, hattrs, -, -⟩ := hfollows
  obtain ⟨c', hc', -, rfl⟩ := attrs_eq_ok hattrs
  obtain ⟨hc, -, -⟩ := hleft
  cases hc.symm.trans hc'
  exact ⟨_, hattrs, rfl, rfl, rfl, rfl, rfl, rfl⟩

/-- Settles O52: every answer is within the bound, and a window past the limit stops the extraction that opens `ATTRS`. -/
theorem windowIsBounded : Obligations.WindowIsBounded := by
  intro s n asw
  refine ⟨fun as t h => ?bound, fun c l hc hl hpast => ?overrun⟩
  case bound =>
    obtain ⟨-, -, hlen, -⟩ := attrs_eq_ok h
    omega
  case overrun =>
    exact (Op.bind_ok (readReq_some hc)).trans (Op.bind_error (extract_truncated hc hl hpast))

/-! ### The two forms as units -/

/-- ATTR.SHORT and ATTR.EXT are one unit, in the form that the instruction names (30 R70). -/
theorem exec_attr {f : Byte} {ext : Bool} {i : Instr} (hi : i = .attrShort f ∧ ext = false ∨ i = .attrExt f ∧ ext = true)
    (s : State) : exec i s = runUnit (do let a ← attrForm f ext; pure (.attr a)) s := by
  obtain ⟨rfl, rfl⟩ | ⟨rfl, rfl⟩ := hi <;> rfl

section Forms

variable {s : State} {c asw : Nat} {ext : Bool}

/-- The attribute at the start of a window is taken, and the iterator's cursor moves past its header and its value. -/
theorem attrForm_of_fits {f t : Byte} {len value more : Run} (hlen : len.length = attrHeaderLen ext - 2)
    (hvalue : value.length = be len) (h : AtWindow s c asw (f :: t :: (len ++ (value ++ more)))) :
    attrForm f ext s = .ok ⟨f, t, BitVec.ofNat 16 value.length, value, asw⟩
      { s with atCur := some (c + (attrHeaderLen ext + value.length)) } := by
  have hheader := three_le_attrHeaderLen ext
  have hcases := attrForm_cases ext h
  rw [← hlen, List.take_left, List.drop_left, ← hvalue, List.take_left, List.drop_left] at hcases
  simp only [List.length_append] at hcases
  obtain ⟨hshort, -⟩ | ⟨-, ⟨hover, -⟩ | ⟨-, u, hform, honly, c', hcur, hlim, -, -⟩⟩ := hcases
  · omega
  · omega
  · rw [hform, honly, hcur]
    rw [honly] at hlim
    obtain ⟨-, hlim', -, -⟩ := h
    have hend := Option.some.inj (hlim'.symm.trans hlim)
    simp only [List.length_cons, List.length_append] at hend
    rw [show c' = c + (attrHeaderLen ext + value.length) by omega]

/-- The flags byte enters the attribute that is taken and nothing else. -/
theorem attrForm_eq_map (f g : Byte) (ext : Bool) :
    attrForm f ext = (fun a => { a with flags := f }) <$> attrForm g ext := by
  have hraise : ∀ k, (fun a : Attr => { a with flags := f }) <$> (raise k : Op Attr) = raise k := fun _ => rfl
  simp only [attrForm, map_bind, map_pure, apply_ite, hraise]

theorem attrForm_error_of_error {f g : Byte} {e : Stop} {t : State} (h : attrForm g ext s = .error e t) :
    attrForm f ext s = .error e t := by
  rw [attrForm_eq_map f g, map_eq_pure_bind, Op.bind_error h]

/-- A window that ends inside the header, or before the length declared in it (44 R131, 60 R185). -/
theorem attrForm_of_unfit {w : Run} (f : Byte) (h : AtWindow s c asw w)
    (hunfit : w.length < attrHeaderLen ext ∨
      w.length < attrHeaderLen ext + be ((w.drop 2).take (attrHeaderLen ext - 2))) :
    attrForm f ext s = .error (.raised .malformedAttribute) s := by
  by_cases hcut : w.length < attrHeaderLen ext
  case pos =>
    obtain ⟨hc, hl, hasw, -⟩ := h
    rw [attrForm, Op.bind_ok (readReq_some hc), Op.bind_ok (readReq_some hl), Op.bind_ok (readReq_some hasw),
      if_pos (by omega), raise_apply]
  case neg =>
    have hheader := three_le_attrHeaderLen ext
    match w, h with
    | [], _ | [_], _ => simp only [List.length_cons, List.length_nil] at hcut; omega
    | x :: t :: more, h =>
      simp only [List.length_cons, List.drop_succ_cons, List.drop_zero] at hcut hunfit
      refine attrForm_error_of_error (g := x) ?_
      obtain ⟨-, hx⟩ | ⟨-, ⟨-, hx⟩ | ⟨hroom, -⟩⟩ := attrForm_cases ext h
      · exact hx
      · exact hx
      · omega

theorem exec_attr_of_unfit {f : Byte} {i : Instr} {w : Run}
    (hi : i = .attrShort f ∧ ext = false ∨ i = .attrExt f ∧ ext = true) (h : AtWindow s c asw w)
    (hunfit : w.length < attrHeaderLen ext ∨
      w.length < attrHeaderLen ext + be ((w.drop 2).take (attrHeaderLen ext - 2))) :
    exec i s = .next (abort .malformedAttribute s) := by
  rw [exec_attr hi]
  exact runUnit_raised (Op.bind_error (attrForm_of_unfit f h hunfit))

end Forms

/-- Settles O49: the two forms differ in the width of the length field, which in each holds the length whole. -/
theorem attributeIsTaken : Obligations.AttributeIsTaken := by
  rintro s c _ a more ext i hi hvalue hshort rfl hwin
  rw [← attrHeaderLen_sub_two] at hwin
  simp only [List.append_assoc, List.cons_append, List.nil_append] at hwin
  have hform := attrForm_of_fits (toBe_length _ _) (hvalue.trans (be_lengthField hshort).symm) hwin
  rw [hvalue, BitVec.ofNat_toNat, BitVec.setWidth_eq] at hform
  rw [exec_attr hi, runUnit_ok ((Op.bind_ok hform).trans (Op.pure_apply _ _))]
  rfl

/-- Settles O50: in both forms the window is tested before anything is taken, so the abort starts from the state as it was. -/
theorem unfitAttributeIsMalformed : Obligations.UnfitAttributeIsMalformed := by
  intro s c asw w f hwin
  exact ⟨exec_attr_of_unfit (.inl ⟨rfl, rfl⟩) hwin, exec_attr_of_unfit (.inr ⟨rfl, rfl⟩) hwin⟩

end Sys2Proof.Machine

/-! PROOFS. The table-dump family (45_table_dump). A frame instruction concludes its frame with what the parser of its class makes
of the body, at the columns of its row of 30 R63. A PeerEntry by itself is four reads at the cursor: on a whole entry each
gives its field, and on a cut one the first that the limit cuts stops. -/

namespace Sys2Proof.Machine

/-! ### The frame instructions -/

/-- Settles O30: the two forms are the rows whose address width is 4 and 16. -/
theorem tableDumpDecodes : Obligations.TableDumpDecodes :=
  fun _ _ _ h => ⟨exec_ready (c := .tdV4) rfl h, exec_ready (c := .tdV6) rfl h⟩

/-- Settles O31: the row has no width of its own, and the parser takes each entry's from its flags. -/
theorem peerIndexTableDecodes : Obligations.PeerIndexTableDecodes :=
  fun _ _ _ h => exec_ready (c := .td2Pit) rfl h

/-- Settles O32: unicast and multicast of one address width and one `AP` have the same parser. -/
theorem ribDecodes : Obligations.RibDecodes :=
  fun _ _ _ h =>
    ⟨exec_ready (c := .td2RibV4u) rfl h, exec_ready (c := .td2RibV4m) rfl h,
      exec_ready (c := .td2RibV6u) rfl h, exec_ready (c := .td2RibV6m) rfl h,
      exec_ready (c := .td2RibV4uAp) rfl h, exec_ready (c := .td2RibV4mAp) rfl h,
      exec_ready (c := .td2RibV6uAp) rfl h, exec_ready (c := .td2RibV6mAp) rfl h⟩

/-- Settles O33: the address width is read from `afi`, so the two forms differ in `AP` alone. -/
theorem ribGenericDecodes : Obligations.RibGenericDecodes :=
  fun _ _ _ h => ⟨exec_ready (c := .td2Ribg) rfl h, exec_ready (c := .td2RibgAp) rfl h⟩

/-! ### Operations on whole fields -/

/-- With the bytes `b` at the cursor the operation gives `v` and moves the cursor past them, and changes nothing else. -/
def Gives {α : Type} (x : Op α) (b : Run) (v : α) : Prop :=
  ∀ ⦃s : State⦄ ⦃c : Nat⦄, AtCursor s c b → x s = .ok v { s with cur := some (c + b.length) }

/-- The first part of the bytes at the cursor is itself at the cursor. -/
theorem AtCursor.of_append {s : State} {c : Nat} {a b : Run} (h : AtCursor s c (a ++ b)) : AtCursor s c a := by
  obtain ⟨hc, hrun, l, hl, hn⟩ := h
  rw [List.length_append] at hn
  exact ⟨hc, (Memory.readRun_append hrun).1, l, hl, by omega⟩

section Fields

variable {α β : Type} {x : Op α} {b b' : Run} {v : α} {u : β}

theorem Gives.bind {f : α → Op β} (hx : Gives x b v) (hf : Gives (f v) b' u) : Gives (x >>= f) (b ++ b') u := by
  intro s c h
  obtain ⟨-, hnext⟩ := h.extract_append
  rw [Op.bind_ok (hx h.of_append), hf hnext, List.length_append, Nat.add_assoc]

/-- The last field of a layout. -/
theorem Gives.map (hx : Gives x b v) (g : α → β) : Gives (x >>= fun a => pure (g a)) b (g v) := by
  intro s c h
  rw [Op.bind_ok (hx h), Op.pure_apply]

theorem extract_gives {n : Nat} (h : b.length = n) : Gives (extract n) b b := by
  rintro s c ⟨hc, hb, l, hl, hn⟩
  rw [← h, extract_ok hc hl hn hb]

theorem addr_gives (h : b.length = 4 ∨ b.length = 16) : Gives (addr b.length) b b := by
  rw [addr_of_legal h]
  exact extract_gives rfl

theorem u16_gives (v : Half) : Gives u16 (toBe 2 v.toNat) v := fun _ _ h => h.u16_eq

theorem u32_gives (v : Word) : Gives u32 (toBe 4 v.toNat) v := fun _ _ h => h.u32_eq

/-- An AS number that is there, at its own width (42 R120, 30 R66). -/
theorem asNumber_gives {n : ASNumber} (h : n.width ≠ 0) : Gives (asNumber n.width) n.wire n := by
  cases n with
  | absent => exact absurd rfl h
  | as2 v => exact (u16_gives v).map _
  | as4 v => exact (u32_gives v).map _

end Fields

theorem ASNumber.wire_length (n : ASNumber) : n.wire.length = n.width := by
  cases n with
  | absent => rfl
  | as2 _ | as4 _ => exact toBe_length _ _

theorem PeerEntry.wire_length (e : PeerEntry) : e.wire.length = 5 + e.addr.length + e.asn.width := by
  simp only [PeerEntry.wire, List.length_append, List.length_singleton, toBe_length, ASNumber.wire_length]

/-- A whole PeerEntry, its flags byte at the cursor, at the widths of its own fields (30 R68, 45 R143). -/
theorem peerUnit_gives {e : PeerEntry} (haddr : e.addr.length = 4 ∨ e.addr.length = 16) (hasn : e.asn.width ≠ 0) :
    Gives (peerUnit e.flags e.addr.length e.asn.width) e.wire (.peer e) := by
  have hafter : Gives (peerAfter e.flags e.addr.length e.asn.width)
      (toBe 4 e.bgpId.toNat ++ (e.addr ++ e.asn.wire)) e :=
    (u32_gives _).bind <| (addr_gives haddr).bind <| (asNumber_gives hasn).map _
  simp only [PeerEntry.wire, List.append_assoc]
  exact (extract_gives (b := [e.flags]) rfl).bind (hafter.map _)

/-! ### Operations on a number of bytes -/

/-- The operation takes `n` bytes whatever they are: with all of them before the limit it answers and the cursor is past
them, and with fewer it is `TruncatedInput`, wherever the cursor had come to. -/
def Takes {α : Type} (n : Nat) (x : Op α) : Prop :=
  ∀ ⦃s : State⦄ ⦃c : Nat⦄ ⦃w : Run⦄, LeftAtCursor s c w →
    (n ≤ w.length → ∃ a, x s = .ok a { s with cur := some (c + n) }) ∧
      (w.length < n → ∃ cur, x s = .error (.raised .truncatedInput) { s with cur := cur })

theorem LeftAtCursor.drop {s : State} {c n : Nat} {w : Run} (h : LeftAtCursor s c w) (hn : n ≤ w.length) :
    s.fb.readRun c n = some (w.take n) ∧ LeftAtCursor { s with cur := some (c + n) } (c + n) (w.drop n) := by
  obtain ⟨hc, hl, hw⟩ := h
  obtain ⟨k, hk⟩ := Nat.exists_eq_add_of_le hn
  have hdrop : (w.drop n).length = k := by rw [List.length_drop]; omega
  rw [hk] at hl hw
  obtain ⟨htaken, hleft⟩ := Memory.readRun_take_drop _ _ _ _ _ hw
  refine ⟨htaken, rfl, ?_, ?_⟩
  · rw [hdrop, Nat.add_assoc]; exact hl
  · rw [hdrop]; exact hleft

section Lengths

variable {α β : Type} {x : Op α} {m n : Nat}

theorem Takes.bind {f : α → Op β} (hx : Takes m x) (hf : ∀ a, Takes n (f a)) : Takes (m + n) (x >>= f) := by
  intro s c w h
  obtain ⟨hok, hcut⟩ := hx h
  by_cases hm : m ≤ w.length
  · obtain ⟨a, ha⟩ := hok hm
    obtain ⟨hok', hcut'⟩ := hf a (h.drop hm).2
    rw [List.length_drop] at hok' hcut'
    rw [Op.bind_ok ha, ← Nat.add_assoc]
    exact ⟨fun hn => hok' (by omega), fun hn => hcut' (by omega)⟩
  · obtain ⟨cur, he⟩ := hcut (Nat.lt_of_not_le hm)
    exact ⟨fun hn => by omega, fun _ => ⟨cur, Op.bind_error he⟩⟩

theorem pure_takes (a : α) : Takes 0 (pure a : Op α) :=
  fun s _ _ h => ⟨fun _ => ⟨a, by rw [Nat.add_zero, ← h.1, Op.pure_apply]⟩, fun hn => absurd hn (Nat.not_lt_zero _)⟩

theorem Takes.map (hx : Takes n x) (g : α → β) : Takes n (x >>= fun a => pure (g a)) :=
  hx.bind fun _ => pure_takes _

theorem extract_takes (n : Nat) : Takes n (extract n) := by
  intro s c w h
  have hdrop := h.drop (n := n)
  obtain ⟨hc, hl, -⟩ := h
  exact ⟨fun hn => ⟨_, extract_ok hc hl (by omega) (hdrop hn).1⟩,
    fun hn => ⟨s.cur, extract_truncated hc hl (by omega)⟩⟩

theorem addr_takes (h : n = 4 ∨ n = 16) : Takes n (addr n) := by
  rw [addr_of_legal h]
  exact extract_takes n

theorem asNumber_takes (h : n = 2 ∨ n = 4) : Takes n (asNumber n) := by
  obtain rfl | rfl := h
  · exact ((extract_takes 2).map _).map _
  · exact ((extract_takes 4).map _).map _

end Lengths

/-- A PeerEntry form is its flags byte, a BGP identifier, an address and an AS number (30 R68). -/
theorem peerUnit_takes (f : Byte) {aw sw : Nat} (haw : aw = 4 ∨ aw = 16) (hsw : sw = 2 ∨ sw = 4) :
    Takes (1 + (4 + (aw + sw))) (peerUnit f aw sw) := by
  have hafter : Takes (4 + (aw + sw)) (peerAfter f aw sw) :=
    ((extract_takes 4).map _).bind fun _ => (addr_takes haw).bind fun _ => (asNumber_takes hsw).map _
  exact (extract_takes 1).bind fun _ => hafter.map _

/-! ### The four forms as units -/

/-- The instruction is the PeerEntry form with these widths of address and AS number (30 R68). -/
def IsPeerForm (i : Instr) (f : Byte) (aw sw : Nat) : Prop :=
  i = .peerV4As2 f ∧ aw = 4 ∧ sw = 2 ∨ i = .peerV6As2 f ∧ aw = 16 ∧ sw = 2 ∨
    i = .peerV4As4 f ∧ aw = 4 ∧ sw = 4 ∨ i = .peerV6As4 f ∧ aw = 16 ∧ sw = 4

section Forms

variable {i : Instr} {f : Byte} {aw sw : Nat}

theorem IsPeerForm.widths (h : IsPeerForm i f aw sw) : (aw = 4 ∨ aw = 16) ∧ (sw = 2 ∨ sw = 4) := by
  unfold IsPeerForm at h
  omega

/-- The four forms are one unit, at the widths that the instruction names. -/
theorem IsPeerForm.exec_eq (h : IsPeerForm i f aw sw) (s : State) : exec i s = runUnit (peerUnit f aw sw) s := by
  obtain ⟨rfl, rfl, rfl⟩ | ⟨rfl, rfl, rfl⟩ | ⟨rfl, rfl, rfl⟩ | ⟨rfl, rfl, rfl⟩ := h <;> rfl

/-- The bytes of a form are 5 and its two widths. -/
theorem exists_isPeerForm_of_size {size : Nat}
    (h : i = .peerV4As2 f ∧ size = 11 ∨ i = .peerV6As2 f ∧ size = 23 ∨ i = .peerV4As4 f ∧ size = 13 ∨
      i = .peerV6As4 f ∧ size = 25) : ∃ aw sw, IsPeerForm i f aw sw ∧ size = 1 + (4 + (aw + sw)) := by
  obtain ⟨hi, rfl⟩ | ⟨hi, rfl⟩ | ⟨hi, rfl⟩ | ⟨hi, rfl⟩ := h
  · exact ⟨4, 2, .inl ⟨hi, rfl, rfl⟩, rfl⟩
  · exact ⟨16, 2, .inr (.inl ⟨hi, rfl, rfl⟩), rfl⟩
  · exact ⟨4, 4, .inr (.inr (.inl ⟨hi, rfl, rfl⟩)), rfl⟩
  · exact ⟨16, 4, .inr (.inr (.inr ⟨hi, rfl, rfl⟩)), rfl⟩

end Forms

/-- Settles O47: the reads of the unit find the fields of the entry one after the other, at the widths the entry has. -/
theorem peerEntryIsTaken : Obligations.PeerEntryIsTaken := by
  rintro s c _ _ e i hat rfl rfl hi
  have hform : IsPeerForm i e.flags e.addr.length e.asn.width := hi
  obtain ⟨haw, hsw⟩ := hform.widths
  rw [hform.exec_eq, runUnit_ok (peerUnit_gives haw (by omega) hat), PeerEntry.wire_length]

/-- Settles O48: the unit takes the bytes of its form or is `TruncatedInput`, and the abort keeps nothing of the cursor, so it
does not matter at which field the cut falls. -/
theorem cutPeerEntryIsTruncated : Obligations.CutPeerEntryIsTruncated := by
  intro s c size left f i hleft hcut hi
  obtain ⟨aw, sw, hform, rfl⟩ := exists_isPeerForm_of_size hi
  obtain ⟨haw, hsw⟩ := hform.widths
  obtain ⟨cur, hraised⟩ := (peerUnit_takes f haw hsw hleft).2 hcut
  rw [hform.exec_eq, runUnit_raised hraised]
  rfl

end Sys2Proof.Machine

/-! PROOFS. The BGP4MP family (46_bgp4mp R160 to R164). A row names the AS width of its frames, and nothing the body holds
changes it; an extended-timestamp twin carries the class of its plain form, so it runs the same sequencer. -/

namespace Sys2Proof.Machine

/-- Settles O34: the sequencer of the class follows the parser at the width of its row, and a twin has the class of its plain
form. -/
theorem stateChangeDecodes : Obligations.StateChangeDecodes :=
  fun _ _ _ h =>
    ⟨exec_ready (c := .b4Sc) rfl h, exec_ready (i := .b4ScEt) (c := .b4Sc) rfl h,
      exec_ready (c := .b4Sc4) rfl h, exec_ready (i := .b4Sc4Et) (c := .b4Sc4) rfl h⟩

/-- Settles O35: machine and parser put the same question to `BgpMsgDecode`, with the payload, the width of the row and the `af`
of the head (`message_followsIn`), so its answer does not matter. -/
theorem messageDecodes : Obligations.MessageDecodes :=
  fun _ _ _ h =>
    ⟨exec_ready (c := .b4Msg) rfl h, exec_ready (i := .b4MsgEt) (c := .b4Msg) rfl h,
      exec_ready (c := .b4Msg4) rfl h, exec_ready (i := .b4Msg4Et) (c := .b4Msg4) rfl h⟩

end Sys2Proof.Machine

/-! PROOFS. The envelope family (47_ospf_isis R170 to R173). OSPFv2 and the part of OSPFv3 after its selector are one layout: two
addresses of one width, then everything that is left. A frame instruction concludes its frame with what the parser of its
class makes of the body, so it is enough to run the parsers. -/

namespace Sys2Proof.Machine

open Parse (Parser)

/-! ### Running a parser -/

theorem Parse.bind_ok {α β : Type} {p : Parser α} {g : α → Parser β} {w w' : Run} {a : α} (h : p w = .ok (a, w')) :
    (p >>= g) w = g a w' := by
  rw [Parse.bind_apply, h]

theorem Parse.bind_error {α β : Type} {p : Parser α} {g : α → Parser β} {w : Run} {k : Raise} (h : p w = .error k) :
    (p >>= g) w = .error k := by
  rw [Parse.bind_apply, h]

theorem Parse.take_of_le {n : Nat} {w : Run} (h : n ≤ w.length) : Parse.take n w = .ok (w.take n, w.drop n) :=
  if_neg (Nat.not_lt.mpr h)

theorem Parse.take_of_lt {n : Nat} {w : Run} (h : w.length < n) : Parse.take n w = .error .truncatedInput :=
  if_pos h

/-! ### Two addresses and a payload -/

/-- The layout that OSPFv2 and OSPFv3 share: remote, local, and all the rest (30 R78, R79). -/
def addressedPayload (n : Nat) (record : Run → Run → Run → Record) : Parser Record := do
  let remote ← Parse.take n
  let loc ← Parse.take n
  let payload ← Parse.all
  pure (record remote loc payload)

section Addressed

variable {n : Nat} {record : Run → Run → Run → Record} {w : Run}

theorem addressedPayload_of_le (h : 2 * n ≤ w.length) : addressedPayload n record w =
    .ok (record (w.take n) ((w.drop n).take n) (w.drop (2 * n)), []) := by
  have hremote : n ≤ w.length := by omega
  have hlocal : n ≤ (w.drop n).length := by rw [List.length_drop]; omega
  rw [addressedPayload, Parse.bind_ok (Parse.take_of_le hremote), Parse.bind_ok (Parse.take_of_le hlocal),
    List.drop_drop, ← two_mul]
  rfl

/-- It does not matter in which of the two addresses the body ends. -/
theorem addressedPayload_of_lt (h : w.length < 2 * n) : addressedPayload n record w = .error .truncatedInput := by
  unfold addressedPayload
  rcases Nat.lt_or_ge w.length n with hremote | hremote
  · exact Parse.bind_error (Parse.take_of_lt hremote)
  · have hlocal : (w.drop n).length < n := by rw [List.length_drop]; omega
    rw [Parse.bind_ok (Parse.take_of_le hremote)]
    exact Parse.bind_error (Parse.take_of_lt hlocal)

end Addressed

theorem ospfv2_eq_addressedPayload (hdr : FrameHdr) : Parse.ospfv2 hdr = addressedPayload 4 (.ospfv2 hdr) := rfl

/-! ### OSPFv3 by its selector -/

section Selector

variable {cfg : Cfg} {hdr : FrameHdr} {body : Run}

theorem ospfv3_of_lt (h : body.length < 2) : Parse.ospfv3 cfg hdr body = .error .truncatedInput :=
  Parse.bind_error (Parse.bind_error (Parse.take_of_lt h))

/-- With its two bytes there, the selector alone decides how the rest is read (30 R71). -/
theorem ospfv3_of_le (h : 2 ≤ body.length) : Parse.ospfv3 cfg hdr body =
    ((afWidth cfg (BitVec.ofNat 16 (be (body.take 2)))).elim (Parse.fail .malformedRecord) fun n =>
      addressedPayload n (.ospfv3 hdr (BitVec.ofNat 16 (be (body.take 2))))) (body.drop 2) := by
  have hselector : Parse.u16 body = .ok (BitVec.ofNat 16 (be (body.take 2)), body.drop 2) :=
    Parse.bind_ok (Parse.take_of_le h)
  rw [Parse.ospfv3, Parse.bind_ok hselector]
  cases afWidth cfg (BitVec.ofNat 16 (be (body.take 2))) <;> rfl

end Selector

/-! ### The frame instructions -/

/-- A body that its class's parser reads to the end is delivered. -/
theorem exec_deliver_of_body_ok {i : Instr} {c : RecordClass} {s : State} {hdr : FrameHdr} {body left : Run} {r : Record}
    (hi : i.recordClass = some c) (h : Ready s hdr body) (hbody : Parse.body s.cfg c hdr body = .ok (r, left)) :
    exec i s = .next (deliver r s) := by
  rw [exec_ready hi h, hbody]
  rfl

/-- A body that its class's parser rejects ends the frame with the parser's error. -/
theorem exec_abort_of_body_error {i : Instr} {c : RecordClass} {s : State} {hdr : FrameHdr} {body : Run} {k : Raise}
    (hi : i.recordClass = some c) (h : Ready s hdr body) (hbody : Parse.body s.cfg c hdr body = .error k) :
    exec i s = .next (abort k.kind s) := by
  rw [exec_ready hi h, hbody]
  rfl

/-- Settles O36: the body is two addresses of four bytes and the payload, and the subtype selects nothing. -/
theorem ospf2Delivers : Obligations.Ospf2Delivers := by
  intro s hdr body sub h
  have hbody : Parse.body s.cfg .ospf2 hdr body = addressedPayload 4 (.ospfv2 hdr) body :=
    congrFun (ospfv2_eq_addressedPayload hdr) body
  exact ⟨fun hle => exec_deliver_of_body_ok rfl h (hbody.trans (addressedPayload_of_le hle)),
    fun hlt => exec_abort_of_body_error (k := .truncatedInput) rfl h (hbody.trans (addressedPayload_of_lt hlt))⟩

/-- Settles O37, by what the body has room for: the selector, then two addresses of the width that it names. -/
theorem ospf3Delivers : Obligations.Ospf3Delivers := by
  intro s hdr body sub i h hi
  have hclass : i.recordClass = some .ospf3 := by obtain rfl | rfl := hi <;> rfl
  refine ⟨fun hlt => exec_abort_of_body_error (k := .truncatedInput) hclass h (ospfv3_of_lt hlt), ?_⟩
  rintro hle af rfl
  have hbody : Parse.body s.cfg .ospf3 hdr body = _ := ospfv3_of_le hle
  have hrest : (body.drop 2).length = body.length - 2 := List.length_drop
  refine ⟨fun hunknown => ?_, fun w hknown => ⟨fun hcut => ?_, fun hroom => ?_⟩⟩
  · rw [hunknown] at hbody
    exact exec_abort_of_body_error (k := .malformedRecord) hclass h hbody
  · rw [hknown, Option.elim_some, addressedPayload_of_lt (by omega)] at hbody
    exact exec_abort_of_body_error (k := .truncatedInput) hclass h hbody
  · rw [hknown, Option.elim_some, addressedPayload_of_le (by omega), List.drop_drop, List.drop_drop] at hbody
    exact exec_deliver_of_body_ok hclass h hbody

/-- Settles O38: the parser of the class takes all that is left and has no way to fail. -/
theorem isisDelivers : Obligations.IsisDelivers := by
  intro s hdr body sub h
  have hbody : Parse.body s.cfg .isis hdr body = .ok (.isis hdr body, []) := rfl
  exact ⟨exec_deliver_of_body_ok rfl h hbody, exec_deliver_of_body_ok rfl h hbody⟩

end Sys2Proof.Machine

/-! PROOFS. What a frame instruction leaves unchanged (60_exceptions R190, R191; 10_state R21): its next state is the end of its
frame, and its result is `Record` or the kind of a raised condition. -/

namespace Sys2Proof.Machine

theorem exec_next_res {i : Instr} {c : RecordClass} {s t : State} (hi : i.recordClass = some c)
    (h : exec i s = .next t) : t.res = some .record ∨ ∃ q : Raise, t.res = some q.kind := by
  rw [exec_eq_runClass hi] at h
  obtain ⟨r, u, -, rfl⟩ | ⟨q, u, -, rfl⟩ := finish_next h
  · exact .inl rfl
  · exact .inr ⟨q, rfl⟩

/-- Settles O39: nothing of the decode outlives the end of the frame, so the other registers stand as before it. -/
theorem frameInstructionFrame : Obligations.FrameInstructionFrame := by
  intro i c s t hi h
  have hres := exec_next_res hi h
  obtain ⟨k, r, rfl, hr⟩ := exec_next_endFrame hi h
  have hrecord : (endFrame k r s).record.isSome = true ↔ (endFrame k r s).res = some .record :=
    hr.trans (Option.some_inj (a := k)).symm
  refine ⟨rfl, rfl, rfl, rfl, rfl, rfl, rfl, rfl, rfl, rfl, rfl, rfl, rfl, rfl, rfl, rfl, rfl, noContext_leaveFrame s,
    fun _ => rfl, hrecord, ?_⟩
  obtain hres | ⟨q, hres⟩ := hres
  · exact .inl hres
  · cases q with
    | truncatedInput => exact .inr (.inl hres)
    | malformedRecord => exact .inr (.inr (.inl hres))
    | malformedAttribute => exact .inr (.inr (.inr hres))

end Sys2Proof.Machine

/-! PROOFS. The caller's acts (60_exceptions R204, 70_reset_and_hazards R215): one equation of the step for each act, whatever
state the block is in. -/

namespace Sys2Proof.Machine

section Acts

variable {s : State} {cs : List CallerAct}

theorem step_of_next (h : s.calls = .next :: cs) : step s = acceptNext { s with calls := cs } := by
  simp only [step, hearCaller, h]

theorem step_of_reset (h : s.calls = .reset :: cs) : step s = .next (resetBlock { s with calls := cs }) := by
  simp only [step, hearCaller, h]

theorem step_of_read {r : CallerReg} (h : s.calls = .read r :: cs) :
    step s = if s.busy && r.guarded then .refused (.readWhileBusy r) else .next { s with calls := cs } := by
  simp only [step, hearCaller, h]
  obtain ⟨hr, hg⟩ | ⟨hr, hg⟩ := readReg_cases r s <;> simp only [hr, hg] <;> rfl

theorem step_of_hold (h : s.calls = .hold :: cs) :
    step s = if s.busy then blockStep { s with calls := cs } else .next { s with calls := cs } := by
  simp only [step, hearCaller, h]
  cases s.busy <;> rfl

/-- A caller that has stopped leaves its mark at the head of its acts (assumption 4). -/
theorem step_of_stop (h : s.calls = .stop :: cs) : step s = if s.busy then blockStep s else .next s := by
  simp only [step, hearCaller, h]
  cases s.busy <;> rfl

end Acts

/-! ### What the caller may do -/

/-- A block whose step changes nothing stays as it is however often it is driven. -/
theorem runNexts_of_self {s : State} (h : step s = .next s) (n : Nat) : runNexts n s = .next s := by
  induction n with
  | zero => rfl
  | succ n ih => exact (runNexts_of_runNext n (stepsUntilIdle_of_self 5 h)).trans ih

/-- Settles O59: the equation of each act, at the value of `BUSY` that the clause is about. -/
theorem callerIsServed : Obligations.CallerIsServed := by
  refine fun s cs => ⟨fun hidle => ⟨fun r h => ⟨?_, ?_⟩, fun h => ?_, fun h => ?_⟩,
    fun hbusy => ⟨fun h => ?_, fun h => ?_⟩⟩
  · rw [readReg, hidle]
    rfl
  · rw [step_of_read h, hidle]
    rfl
  · rw [step_of_hold h, hidle]
    rfl
  · have hself : step s = .next s := by
      rw [step_of_stop h, hidle]
      rfl
    exact ⟨hself, runNexts_of_self hself⟩
  · rw [step_of_hold h, if_pos hbusy]
  · rw [step_of_stop h, if_pos hbusy]

/-! ### What the caller may not do -/

/-- Settles O13: the equations of `NEXT` and of a read at `BUSY = 1`. -/
theorem busyCallerIsRefused : Obligations.BusyCallerIsRefused := by
  refine fun s cs r hbusy => ⟨fun h => ?_, fun h hguarded => ?_, fun h hguarded => ?_⟩
  · rw [step_of_next h]
    exact if_pos hbusy
  · rw [step_of_read h, hbusy, hguarded]
    rfl
  · rw [step_of_read h, hguarded, Bool.and_false]
    rfl

theorem acceptNext_refused {s : State} {x : Refusal} (h : acceptNext s = .refused x) : s.busy = true := by
  obtain ⟨hbusy, -⟩ | ⟨-, -, hr⟩ | ⟨-, -, hr⟩ := acceptNext_cases s
  · exact hbusy
  all_goals
    rw [hr] at h
    cases h

/-- Settles O24: from the invariant the block's own step is never refused, so a refusal is the answer to an act, and only
`NEXT` and a guarded read at `BUSY = 1` are answered so. -/
theorem refusedOnlyForTheCaller : Obligations.RefusedOnlyForTheCaller := by
  refine fun s h => ⟨?_, ?_⟩
  · rintro ⟨x, hx⟩
    unfold step at hx
    obtain ⟨cs, hbusy, hr⟩ | ⟨cs, -, hr⟩ | ⟨cs, hcalls, hr⟩ | ⟨cs, -, hr⟩ | ⟨r, cs, hcalls, ⟨-, hr⟩ | ⟨hguarded, hr⟩⟩ :=
      hearCaller_cases s <;> simp only [hr] at hx
    · obtain ⟨t, ht⟩ := blockStep_exists_next (s := { s with calls := cs }) h hbusy
      rw [ht] at hx
      cases hx
    · cases hx
    · have hbusy := acceptNext_refused (s := { s with calls := cs }) hx
      obtain hcalls | ⟨-, -, hidle⟩ := hcalls
      · exact ⟨hbusy, .inl (by rw [hcalls]; rfl)⟩
      · exact absurd (hidle.symm.trans hbusy) nofun
    · cases hx
    · cases hx
    · obtain ⟨hbusy, hguarded⟩ := Bool.and_eq_true_iff.mp hguarded
      exact ⟨hbusy, .inr ⟨r, hguarded, by rw [hcalls]; rfl⟩⟩
  · rintro ⟨hbusy, hhead | ⟨r, hguarded, hhead⟩⟩ <;> obtain ⟨cs, hcalls⟩ := List.head?_eq_some_iff.mp hhead
    · obtain ⟨hnext, -, -⟩ := busyCallerIsRefused s cs .res hbusy
      exact ⟨_, hnext hcalls⟩
    · obtain ⟨-, hread, -⟩ := busyCallerIsRefused s cs r hbusy
      exact ⟨_, hread hcalls hguarded⟩

end Sys2Proof.Machine

/-! PROOFS. Reset, a silent supplier, and the delivery of a `NEXT` (70_reset_and_hazards R210, R211, R218, R222). -/

namespace Sys2Proof.Machine

/-! ### Reset -/

/-- The state after reset is one that a reset leaves as it is. -/
theorem resetBlock_reset : resetBlock State.reset = State.reset := rfl

/-- Settles O11: the state after reset is itself reset, so the table is one for both. -/
theorem resetLeavesTheTable : Obligations.ResetLeavesTheTable := by
  intro s t ht
  obtain ⟨u, rfl⟩ : ∃ u, t = resetBlock u := by
    obtain rfl | ht := List.mem_cons.mp ht
    · exact ⟨State.reset, resetBlock_reset.symm⟩
    · exact ⟨s, List.mem_singleton.mp ht⟩
  have hnone : HeaderNone (resetBlock u) := ⟨rfl, rfl, rfl, rfl, rfl, rfl, rfl, rfl⟩
  exact ⟨rfl, rfl, rfl, rfl, rfl, rfl, hnone, fun _ => rfl, rfl, rfl, rfl, rfl, rfl, rfl, rfl, rfl, rfl, rfl, rfl, rfl⟩

/-- Settles O12: the caller's reset is heard before the block runs, whatever is in progress. -/
theorem resetAbandonsTheNext : Obligations.ResetAbandonsTheNext :=
  fun _ _ h => ⟨_, step_of_reset h, rfl, rfl, rfl, rfl, rfl⟩

/-- Settles O22: a reset meets the invariant where the buffer is large enough, and the default buffer is just so large. -/
theorem resetMeetsInv : Obligations.ResetMeetsInv := by
  have h : BlockInv (resetBlock State.reset) := inv_resetBlock le_rfl
  rwa [resetBlock_reset] at h

/-! ### A silent supplier -/

/-- Settles O19: in both states that read, a read that the bytes do not fill comes to the supplier's mark, and silence changes
nothing. -/
theorem silentSupplierSuspends : Obligations.SilentSupplierSuspends := by
  refine fun s hcalls hbusy hsilent => ⟨fun hfsm hshort => ?_, fun et len hfsm het hlen hshort => ?_⟩
  · rw [step_eq_awaitHeader hcalls hbusy hfsm, awaitHeader_short hshort, runOut_silent hsilent]
  · rw [step_eq_awaitBody hcalls hbusy hfsm, awaitBody_short het hlen hshort, runOut_silent hsilent]

/-! ### Delivery -/

/-- Between two `NEXT`s of a live stream the invariant is what a whole `NEXT` starts from. -/
theorem BlockInv.idle {s : State} (h : BlockInv s) (hbusy : s.busy = false) (hcalls : s.calls = [])
    (hfsm : s.fsm ≠ .done) : Idle s := by
  obtain ⟨hcap, -, ⟨-, -, -, -, -, -, -, -, -, hfocus, -⟩, ⟨hdone, -⟩, hidle, -⟩ := h
  obtain ⟨hstate, hfb, -⟩ := hidle hbusy
  have hlive : s.term = .live := by_contra fun ht => hfsm (hdone.mpr ht)
  exact ⟨hbusy, hstate.resolve_right hfsm, hlive, hcalls, hfb, hfocus, hcap⟩

/-- The `NEXT` is over and has a result (70 R222). -/
def Delivered (t : State) : Prop :=
  t.busy = false ∧ t.res.isSome = true

/-- A supplier that answers ends the stream where its bytes run out. -/
theorem delivered_runOut {x : Term} {u : State} (h : u.srcEnd ≠ .silent) : Delivered (runOut x u) := by
  cases hend : u.srcEnd with
  | eos => rw [runOut_eos hend]; exact ⟨rfl, rfl⟩
  | ioerr e => rw [runOut_ioerr hend]; exact ⟨rfl, rfl⟩
  | silent => exact absurd hend h

/-- A `NEXT` on a live stream, by the course that the stream gives it. -/
theorem Idle.delivers {s : State} (h : Idle s) (hanswers : s.srcEnd ≠ .silent) :
    ∃ t, runNext s = .next t ∧ Delivered t := by
  rcases stream_cases s.cfg s.src with hshort | ⟨hd, rest, hsrc, hcut⟩ | ⟨hd, b, more, hsrc, hb⟩
  · exact ⟨_, runNext_of_short h hshort, delivered_runOut (u := s.accepted) hanswers⟩
  · exact ⟨_, runNext_of_cutBody h hsrc hcut, delivered_runOut (u := s.headed hd rest) hanswers⟩
  · exact ⟨_, runNext_of_frame h hsrc hb, rfl, rfl⟩

/-- Settles O29, by whether the stream has ended: a replay is a result, and a live stream gives one by each course. -/
theorem nextDelivers : Obligations.NextDelivers := by
  intro s h hbusy hcalls hanswers
  by_cases hfsm : s.fsm = .done
  · exact ⟨_, runNext_of_done hbusy hfsm hcalls, rfl, rfl⟩
  · exact (h.idle hbusy hcalls hfsm).delivers hanswers

end Sys2Proof.Machine
